-- ==== Sys2Proof/Word.lean ====
section
/-! DEFINITION. The words that cross FPDEC's two ports and the concatenation they are built with.
Bit 0 is the least significant bit (00_scope.md R6); a word crosses a port whole, so there is no byte order
(20_memory.md R32). -/

namespace Sys2Proof

/-- A 32-bit word: the operand `SRC`, an FP32 pattern, the output `BITS` (R40, R15). -/
abbrev Word := BitVec 32

/-- A 40-bit command word `CMD` (30_encoding.md R40). -/
abbrev CmdWord := BitVec 40

/-- A 128-bit response word `RSP` (30_encoding.md R47). -/
abbrev RspWord := BitVec 128

end Sys2Proof
end

