-- ==== Sys2Proof/Config.lean ====
section
/-! DEFINITION. What is fixed for the machine: the names of the three format profiles (10_state.md R10) and the one
open parameter of the spec, `LATENCY` (00_scope.md R5). The profiles' numbers (R10, R11, R13) stand in
Machine/Profile.lean. -/

namespace Sys2Proof

/-- The three format profiles FPDEC holds (R2, R10). `FMT = 0b11` names none (R43). -/
inductive Fmt where
  | fp32
  | fp16
  | bf16
  deriving DecidableEq, Repr

/-- `LATENCY` of R5 and R136: the time from the n-th command after reset to its response. It may differ between
commands and no rule reads it, so nothing in the model applies it and nothing constrains it (log 4). -/
opaque Config.latency : Nat → Nat

end Sys2Proof
end

