-- ==== Sys2Proof/Syntax.lean ====
section
/-! DEFINITION. The six commands (30_encoding.md R44), each with its whole 32-bit operand `SRC` (R45), and the two
fault codes a command can raise (60_exceptions.md R110). -/

namespace Sys2Proof

/-- A command, one constructor per row of the opcode map R44. The format is part of the command: the control byte
alone selects it. -/
inductive Instr where
  /-- `DEC.FP32 SRC` (R71) -/
  | decFp32 (src : Word)
  /-- `DEC.FP16 SRC` (R72) -/
  | decFp16 (src : Word)
  /-- `DEC.BF16 SRC` (R73) -/
  | decBf16 (src : Word)
  /-- `CVT.FP32 SRC` (R86) -/
  | cvtFp32 (src : Word)
  /-- `CVT.FP16 SRC` (R87) -/
  | cvtFp16 (src : Word)
  /-- `CVT.BF16 SRC` (R88) -/
  | cvtBf16 (src : Word)
  deriving DecidableEq, Repr

/-- The two synchronous faults of R110, as carried by a `Fault(code)` response. -/
inductive FaultCode where
  /-- `IllegalCommand`, `ERR` code 1: the control byte is not one of the six (R112). -/
  | illegalCommand
  /-- `MalformedOperand`, `ERR` code 2: a 16-bit `DEC` with `SRC[31:16] ≠ 0` (R113). -/
  | malformedOperand
  deriving DecidableEq, Repr

/-- The operand of a command, `SRC` (R41). -/
def Instr.src : Instr → Word
  | .decFp32 s => s
  | .decFp16 s => s
  | .decBf16 s => s
  | .cvtFp32 s => s
  | .cvtFp16 s => s
  | .cvtBf16 s => s

/-- The format profile a command selects (R43, R44). -/
def Instr.fmt : Instr → Fmt
  | .decFp32 _ => .fp32
  | .decFp16 _ => .fp16
  | .decBf16 _ => .bf16
  | .cvtFp32 _ => .fp32
  | .cvtFp16 _ => .fp16
  | .cvtBf16 _ => .bf16

/-- FPV's entry points as aliases of the `CVT` commands (R52). The operand is the FP32 pattern of the number: rounding
a real to it is the writer's duty, never the block's (R52, R133 duty 3). -/
def convertFP32 (v32 : Word) : Instr := .cvtFp32 v32
def convertFP16 (v32 : Word) : Instr := .cvtFp16 v32
def convertBF16 (v32 : Word) : Instr := .cvtBf16 v32

/-- FPV's `decode(bits, P)` as an alias of `DEC.P` with `bits` right-aligned in `SRC` (R52). -/
def decodeAlias (fmt : Fmt) (bits : Word) : Instr :=
  match fmt with
  | .fp32 => .decFp32 bits
  | .fp16 => .decFp16 bits
  | .bf16 => .decBf16 bits

/-- The `CVT` command of a format: `convertFP32`, `convertFP16` or `convertBF16`, selected by format. -/
def convertAlias (fmt : Fmt) (v32 : Word) : Instr :=
  match fmt with
  | .fp32 => convertFP32 v32
  | .fp16 => convertFP16 v32
  | .bf16 => convertBF16 v32

end Sys2Proof
end

