-- ==== Sys2Proof/WellFormed.lean ====
section
/-! DEFINITION. The operand check of R60 on an instruction: the operand of a 16-bit `DEC` holds a 16-bit pattern. An
instruction that fails it still has an encoding and an effect, the `MalformedOperand` response (R113); the host owes
never to send one (R133 duty 2). -/

namespace Sys2Proof

/-- `SRC[31:16] = 0`: the operand is a right-aligned 16-bit pattern (R60, R33). -/
def fits16 (src : Word) : Bool := src.extractLsb' 16 16 == 0#16

/-- The well-formed commands: every operand for `DEC.FP32` ("For FP32 every 32-bit operand is well formed", R60) and
for the three `CVT` (R80); a right-aligned 16-bit pattern for `DEC.FP16` and `DEC.BF16`. -/
def Instr.wellFormed : Instr → Bool
  | .decFp32 _ => true
  | .decFp16 s => fits16 s
  | .decBf16 s => fits16 s
  | .cvtFp32 _ => true
  | .cvtFp16 _ => true
  | .cvtBf16 _ => true

end Sys2Proof
end

