-- ==== Sys2Proof/Decode.lean ====
section
/-! DEFINITION. The command word: its fields (30_encoding.md R40, R41), the total decoder of R53 with the rejection of
R46, and the encoder. -/

namespace Sys2Proof

/-- `OP = CMD[39:36]` (R41). -/
def cmdOp (w : CmdWord) : BitVec 4 := w.extractLsb' 36 4
/-- `RSV = CMD[35:34]` (R41). -/
def cmdRsv (w : CmdWord) : BitVec 2 := w.extractLsb' 34 2
/-- `FMT = CMD[33:32]` (R41). -/
def cmdFmt (w : CmdWord) : BitVec 2 := w.extractLsb' 32 2
/-- The control byte `CTL = CMD[39:32]` (R40). -/
def cmdCtl (w : CmdWord) : BitVec 8 := w.extractLsb' 32 8
/-- The operand `SRC = CMD[31:0]` (R41). -/
def cmdSrc (w : CmdWord) : Word := w.extractLsb' 0 32

/-- `DecodeCommand` of R53, total on every 40-bit word: one of the six commands, or `IllegalCommand`. -/
def decodeCommand (w : CmdWord) : Except FaultCode Instr :=
  if cmdCtl w = 0x10#8 then .ok (.decFp32 (cmdSrc w))
  else if cmdCtl w = 0x11#8 then .ok (.decFp16 (cmdSrc w))
  else if cmdCtl w = 0x12#8 then .ok (.decBf16 (cmdSrc w))
  else if cmdCtl w = 0x20#8 then .ok (.cvtFp32 (cmdSrc w))
  else if cmdCtl w = 0x21#8 then .ok (.cvtFp16 (cmdSrc w))
  else if cmdCtl w = 0x22#8 then .ok (.cvtBf16 (cmdSrc w))
  else .error .illegalCommand

/-- The control byte of a command, column `CTL` of R44. -/
def Instr.ctl : Instr → BitVec 8
  | .decFp32 _ => 0x10#8
  | .decFp16 _ => 0x11#8
  | .decBf16 _ => 0x12#8
  | .cvtFp32 _ => 0x20#8
  | .cvtFp16 _ => 0x21#8
  | .cvtBf16 _ => 0x22#8

/-- The encoding of a command: `CMD = {CTL, SRC}` (R40, R52). -/
def encode (i : Instr) : CmdWord := i.ctl ++ i.src

/-- A word the opcode map does not name, as R46 and R112 say it by fields: `OP` is neither `DEC` nor `CVT`, or `RSV` is
not zero, or `FMT` is the reserved `0b11`. -/
def reservedEncoding (w : CmdWord) : Bool :=
  (cmdOp w != 1#4 && cmdOp w != 2#4) || cmdRsv w != 0#2 || cmdFmt w == 3#2

/-- One row of the opcode map R44: the control byte by its fields, and the 40-bit match and mask. -/
structure OpcodeRow where
  op : BitVec 4
  fmtCode : BitVec 2
  ctl : BitVec 8
  matchWord : CmdWord
  maskWord : CmdWord
  deriving DecidableEq, Repr

/-- The row of the opcode map R44 a command belongs to, numbers as the table prints them. -/
def Instr.row : Instr → OpcodeRow
  | .decFp32 _ => ⟨1, 0, 0x10, 0x1000000000, 0xFF00000000⟩
  | .decFp16 _ => ⟨1, 1, 0x11, 0x1100000000, 0xFF00000000⟩
  | .decBf16 _ => ⟨1, 2, 0x12, 0x1200000000, 0xFF00000000⟩
  | .cvtFp32 _ => ⟨2, 0, 0x20, 0x2000000000, 0xFF00000000⟩
  | .cvtFp16 _ => ⟨2, 1, 0x21, 0x2100000000, 0xFF00000000⟩
  | .cvtBf16 _ => ⟨2, 2, 0x22, 0x2200000000, 0xFF00000000⟩

/-- The command word of an `nbits`-bit table word: bit 0 of `w` is `CMD[0]`, and every bit above `nbits` is 0. The one
command length is 40 bits (R40) and no rule splits a word into bytes (R32), so nothing is reordered (log 6). -/
def tableCmdWord (nbits w : Nat) : CmdWord := BitVec.ofNat 40 (w % 2 ^ nbits)

/-- What the decoder reads from a table word; none where it rejects it, or where the word is longer than a command. -/
def decodeTableWord (nbits w : Nat) : Option Instr :=
  if 40 < nbits then none
  else
    match decodeCommand (tableCmdWord nbits w) with
    | .ok i => some i
    | .error _ => none

end Sys2Proof
end

