-- ==== Sys2Proof/Machine/Profile.lean ====
section
/-! DEFINITION. The hard-wired constants of the three format profiles: widths, bias, all-ones exponent (10_state.md R10,
R11), field positions (R12) and the canonical patterns of the encode paths (R13). No command reads them as data, none
writes them and reset does not change them, so they are no state. -/

namespace Sys2Proof

/-- `EW`, the exponent width (R10). -/
@[reducible] def Fmt.ew : Fmt → Nat
  | .fp32 => 8
  | .fp16 => 5
  | .bf16 => 8

/-- `MW`, the mantissa width (R10). -/
@[reducible] def Fmt.mw : Fmt → Nat
  | .fp32 => 23
  | .fp16 => 10
  | .bf16 => 7

/-- `PW = 1 + EW + MW`, the pattern width (R5, R10), written as its value so that a pattern of a known format has a
literal width; `Fmt.pw_eq` says the sum. -/
@[reducible] def Fmt.pw : Fmt → Nat
  | .fp32 => 32
  | .fp16 => 16
  | .bf16 => 16

/-- `BIAS = 2^(EW-1) - 1` (R11). -/
def Fmt.bias (f : Fmt) : Nat := 2 ^ (f.ew - 1) - 1

/-- `MAXB = 2^EW - 1`, the reserved all-ones exponent (R11). -/
def Fmt.maxb (f : Fmt) : Nat := 2 ^ f.ew - 1

/-- The 2-bit code that selects the profile (R10, R43). -/
def Fmt.code : Fmt → BitVec 2
  | .fp32 => 0
  | .fp16 => 1
  | .bf16 => 2

/-- A pattern of a format: exactly `PW` bits, sign then exponent then mantissa from the most significant bit (R12). -/
abbrev Pattern (f : Fmt) := BitVec f.pw

namespace Machine

/-- A pattern put together from its fields (R12), FP32. -/
def assemble32 (sign : Bool) (exponent : BitVec 8) (mantissa : BitVec 23) : BitVec 32 :=
  BitVec.ofBool sign ++ exponent ++ mantissa

/-- A pattern put together from its fields (R12), FP16. -/
def assemble16 (sign : Bool) (exponent : BitVec 5) (mantissa : BitVec 10) : BitVec 16 :=
  BitVec.ofBool sign ++ exponent ++ mantissa

/-- A pattern put together from its fields (R12), BF16. -/
def assembleBF (sign : Bool) (exponent : BitVec 8) (mantissa : BitVec 7) : BitVec 16 :=
  BitVec.ofBool sign ++ exponent ++ mantissa

/-- `NAN32` (R13): the literal, whose top mantissa bit is clear (90_conflicts.md C4). -/
def nan32 : BitVec 32 := assemble32 false 0xFF 0x000001
/-- `NAN16` (R13). -/
def nan16 : BitVec 16 := assemble16 false 0x1F 0x201
/-- `NANBF` (R13). -/
def nanBF : BitVec 16 := assembleBF false 0xFF 0x40
/-- `ZEROBF` (R13). -/
def zeroBF : BitVec 16 := assembleBF false 0x00 0x00
/-- `PINFBF` and `NINFBF` (R13), by sign. -/
def infBF (sign : Bool) : BitVec 16 := assembleBF sign 0xFF 0x00

end Machine

end Sys2Proof
end

