-- ==== Sys2Proof/Machine/Value.lean ====
section
/-! DEFINITION. The represented value of a pattern: the type `Val` of 00_scope.md R7 and its numeric equality. A `fin`
term is kept as the term a rule writes (R65, R69); two terms of one rational are the same value by `sameValue`, not by
being equal terms (log 12). -/

namespace Sys2Proof.Machine

/-- `Val` of R7. A sign is `true` for 1, the minus sign. `fin s n k` denotes `(-1)^s * n * 2^k`. -/
inductive Val where
  | nan
  | inf (s : Bool)
  | zero (s : Bool)
  | fin (s : Bool) (n : Nat) (k : Int)
  deriving DecidableEq, Repr

/-- R7 asks `n ≥ 1` of a `Fin` term. -/
def Val.wf : Val → Bool
  | .fin _ n _ => 0 < n
  | _ => true

/-- `n * 2^k = m * 2^j` over the rationals, decided on integers: both sides are scaled by `2^(-min k j)`. -/
def sameMagnitude (n : Nat) (k : Int) (m : Nat) (j : Int) : Bool :=
  n * 2 ^ (k - min k j).toNat == m * 2 ^ (j - min k j).toNat

/-- `numeq` of R7: the host's strict numeric comparison. False when a side is NaN; the two zeros are equal. -/
def numeq : Val → Val → Bool
  | .inf s, .inf t => s == t
  | .zero _, .zero _ => true
  | .fin s n k, .fin t m j => s == t && sameMagnitude n k m j
  | _, _ => false

/-- Two terms that are one value of R7: unlike `numeq`, NaN is itself and the two zeros differ. -/
def sameValue : Val → Val → Bool
  | .nan, .nan => true
  | .inf s, .inf t => s == t
  | .zero s, .zero t => s == t
  | .fin s n k, .fin t m j => s == t && sameMagnitude n k m j
  | _, _ => false

/-- The number `+1` or `-1` of a sign bit: `SGNV` of R17. -/
def signFactor (s : Bool) : Int := if s then -1 else 1

/-- The rational a finite value denotes (R7); none for NaN and the infinities. -/
def Val.toRat : Val → Option Rat
  | .nan => none
  | .inf _ => none
  | .zero _ => some 0
  | .fin s n k => some ((signFactor s : Rat) * (n : Rat) * (2 : Rat) ^ k)

/-- The value with its sign changed (R74 law 5); NaN has no sign. -/
def Val.negate : Val → Val
  | .nan => .nan
  | .inf s => .inf !s
  | .zero s => .zero !s
  | .fin s n k => .fin (!s) n k

/-- `v is Zero(_)` of R102, R103. -/
def Val.isZero : Val → Bool
  | .zero _ => true
  | _ => false

/-- `v is Inf(_)` of R102. -/
def Val.isInf : Val → Bool
  | .inf _ => true
  | _ => false

/-- `v is Zero(_) or Fin(_,_,_)` of R102. -/
def Val.isFinite : Val → Bool
  | .zero _ => true
  | .fin _ _ _ => true
  | _ => false

/-- `v = NaN` of R101. -/
def Val.isNaN : Val → Bool
  | .nan => true
  | _ => false

end Sys2Proof.Machine
end

