-- ==== Sys2Proof/Machine/Response.lean ====
section
/-! DEFINITION. The response record of 10_state.md R15 with the abstract value `FV` of R17 beside the bits, the two kinds
of response, and the numbers that are functions of the record (R17). -/

namespace Sys2Proof.Machine

/-- `CLS`: Normal, or one of FPV's four special cases (R49). Codes 5 to 7 are never produced (U10), so no constructor
stands for them. -/
inductive Cls where
  | normal
  | zero
  | infinity
  | nan
  | denormalized
  deriving DecidableEq, Repr

/-- The record of an `Ok` response (R15), field by field, and `fv`, the represented value (R17, R61; log 13). One-bit
fields are `true` for 1. -/
structure Fields where
  /-- `BITS`: the pattern that was decomposed, right-aligned -/
  bits : Word
  /-- `SGN`: the sign bit -/
  sgn : Bool
  /-- `EXPB`: the biased exponent field, right-aligned -/
  expb : BitVec 8
  /-- `EXPV`: `EXPB - BIAS`, two's complement -/
  expv : BitVec 9
  /-- `MAN`: the mantissa field, right-aligned -/
  man : BitVec 23
  /-- `HID`: the implicit bit -/
  hid : Bool
  /-- `SPC`: the exponent field is 0 or `MAXB` -/
  spc : Bool
  /-- `CLS`: the class -/
  cls : Cls
  /-- `FV32`: the represented value as an FP32 pattern -/
  fv32 : Word
  /-- `LOSS` -/
  loss : Bool
  /-- `OVF` -/
  ovf : Bool
  /-- `UNF` -/
  unf : Bool
  /-- `FV`: the represented value; not on the wire -/
  fv : Val
  deriving DecidableEq, Repr

/-- A response (R15): `Ok(r)`, or `Fault(code)`, which carries no data (R51, U7). -/
inductive Response where
  | ok (r : Fields)
  | fault (code : FaultCode)
  deriving DecidableEq, Repr

/-- Whether a response is a fault (R120: a failed run). -/
def Response.isFault : Response → Bool
  | .ok _ => false
  | .fault _ => true

/-- `SGNV` (R17). -/
def Fields.sgnv (r : Fields) : Int := signFactor r.sgn

/-- `FRAC`, the exact rational `MAN / 2^MW` (R17, R64). -/
def Fields.frac (f : Fmt) (r : Fields) : Rat := (r.man.toNat : Rat) / 2 ^ f.mw

/-- `MANV = HID + FRAC` (R17). -/
def Fields.manv (f : Fmt) (r : Fields) : Rat := (r.hid.toNat : Rat) + r.frac f

/-- The record with its three loss flags set (R80, R71). -/
def Fields.withFlags (r : Fields) (loss ovf unf : Bool) : Fields :=
  { r with loss := loss, ovf := ovf, unf := unf }

end Sys2Proof.Machine
end

