-- ==== Sys2Proof/Machine/Decompose.lean ====
section
/-! DEFINITION. `Decode(fmt, p)` of 40_decode.md R61 to R70, called `decompose` here (decoding a command word is
Sys2Proof/Decode.lean): ONE function for the three formats, parameterised by the profile, as FPV §9 asks. -/

namespace Sys2Proof.Machine

/-- `SGN = p[W-1]` (R62). -/
def signOf (fmt : Fmt) (p : Pattern fmt) : Bool := p.getLsbD (fmt.pw - 1)

/-- `EXPB = uint(p[W-2:M])`, right-aligned in 8 bits (R63, R15). -/
def expbOf (fmt : Fmt) (p : Pattern fmt) : BitVec 8 := (p.extractLsb' fmt.mw fmt.ew).setWidth 8

/-- `MAN = uint(p[M-1:0])`, right-aligned in 23 bits (R64, R15). -/
def manOf (fmt : Fmt) (p : Pattern fmt) : BitVec 23 := (p.extractLsb' 0 fmt.mw).setWidth 23

/-- `EXPB - BIAS`, an exact integer for every class (R63). -/
def debias (fmt : Fmt) (expb : BitVec 8) : Int := (expb.toNat : Int) - fmt.bias

/-- The three-way split on the exponent field and the test of the mantissa (R64 to R69). -/
def classify (fmt : Fmt) (expb : BitVec 8) (man : BitVec 23) : Cls :=
  if expb.toNat = fmt.maxb then
    if man = 0#23 then .infinity else .nan
  else if expb = 0#8 then
    if man = 0#23 then .zero else .denormalized
  else .normal

/-- `HID`: 1 for class Normal (R65), 0 for the other four (R66 to R69; D9, log 7). -/
def implicitBit (cls : Cls) : Bool := cls == .normal

/-- `SPC = (CLS ≠ Normal)` (R64, R61). -/
def isSpecial (cls : Cls) : Bool := cls != .normal

/-- `FV` by class (R65 to R69). Denormalized uses the exponent `1 - BIAS`, not the reported `EXPV` (R69). -/
def valueOf (fmt : Fmt) (cls : Cls) (sgn : Bool) (expb : BitVec 8) (man : BitVec 23) : Val :=
  match cls with
  | .infinity => .inf sgn
  | .nan => .nan
  | .zero => .zero sgn
  | .denormalized => .fin sgn man.toNat (1 - (fmt.bias : Int) - fmt.mw)
  | .normal => .fin sgn (2 ^ fmt.mw + man.toNat) (debias fmt expb - fmt.mw)

/-- The position of the highest 1 among bits `top` down to 0 of `m`; 0 if there is none above bit 0 (R70, `j`). -/
def highestOne (m : Nat) : Nat → Nat
  | 0 => 0
  | top + 1 => if m.testBit (top + 1) then top + 1 else highestOne m top

/-- The row "FP16, Denormalized" of R70: the normalising shift to an FP32 normal. -/
def fv32OfSubnormal16 (sgn : Bool) (man : BitVec 23) : Word :=
  let j := highestOne man.toNat 9
  assemble32 sgn (BitVec.ofNat 8 (j + 103)) (BitVec.ofNat 23 ((man.toNat - 2 ^ j) * 2 ^ (23 - j)))

/-- `FV32` by the table of R70: every value of the three formats is exactly an FP32 value, and every NaN is `NAN32`
(D10). -/
def fv32Of (fmt : Fmt) (cls : Cls) (bits : Word) (sgn : Bool) (expb : BitVec 8) (man : BitVec 23) : Word :=
  match cls, fmt with
  | .nan, _ => nan32
  | _, .fp32 => bits
  | _, .bf16 => bits <<< 16
  | .zero, .fp16 => assemble32 sgn 0x00 0
  | .infinity, .fp16 => assemble32 sgn 0xFF 0
  | .normal, .fp16 => assemble32 sgn (BitVec.ofNat 8 (expb.toNat + 112)) (man <<< 13)
  | .denormalized, .fp16 => fv32OfSubnormal16 sgn man

/-- `Decode(fmt, p)` of R61, with the three loss flags 0 (R104); a `CVT` sets them afterwards (R80). -/
def decompose (fmt : Fmt) (p : Pattern fmt) : Fields :=
  let sgn := signOf fmt p
  let expb := expbOf fmt p
  let man := manOf fmt p
  let cls := classify fmt expb man
  let bits := p.setWidth 32
  { bits := bits
    sgn := sgn
    expb := expb
    expv := BitVec.ofInt 9 (debias fmt expb)
    man := man
    hid := implicitBit cls
    spc := isSpecial cls
    cls := cls
    fv32 := fv32Of fmt cls bits sgn expb man
    loss := false
    ovf := false
    unf := false
    fv := valueOf fmt cls sgn expb man }

/-- `V32(w)` of R7: the value of a 32-bit word read as an FP32 pattern. -/
def v32 (w : Word) : Val := (decompose .fp32 w).fv

end Sys2Proof.Machine
end

