-- ==== Sys2Proof/Machine/Encode.lean ====
section
/-! DEFINITION. The three encode paths of 41_convert.md, each from a 32-bit source word to a pattern of its format: three
distinct strategies behind one signature (FPV §9). None rounds (R90). -/

namespace Sys2Proof.Machine

/-- The source word's fields, read as an FP32 pattern (R81, R83): `s[31]`, `s[30:23]`, `s[22:0]`. -/
def srcSign (s : Word) : Bool := s.getLsbD 31
def srcExp (s : Word) : BitVec 8 := s.extractLsb' 23 8
def srcMan (s : Word) : BitVec 23 := s.extractLsb' 0 23

/-- `IsNaN32` (R81). -/
def isNaN32 (s : Word) : Bool := srcExp s == 0xFF#8 && srcMan s != 0#23
/-- `IsInf32` (R81). -/
def isInf32 (s : Word) : Bool := s.extractLsb' 0 31 == 0x7F800000#31
/-- `IsZero32` (R81). -/
def isZero32 (s : Word) : Bool := s.extractLsb' 0 31 == 0#31
/-- `IsSub32` (R81). -/
def isSub32 (s : Word) : Bool := srcExp s == 0x00#8 && srcMan s != 0#23

/-- `Enc32` (R82): pass-through with one canonical NaN. -/
def enc32 (s : Word) : BitVec 32 := if isNaN32 s then nan32 else s

/-- `Rebias16` (R83), defined on every word, NaNs included. The sign is the source's in every branch (D12, log 9); the
mantissa is truncated to `m[22:13]`; there is no FP16 subnormal result. -/
def rebias16 (s : Word) : BitVec 16 :=
  let sg := srcSign s
  let m := srcMan s
  if srcExp s = 0xFF#8 then
    if m ≠ 0#23 then assemble16 sg 0b11111 0x200 else assemble16 sg 0b11111 0x000
  else if srcExp s = 0#8 then assemble16 sg 0b00000 0x000
  else
    let newExp : Int := ((srcExp s).toNat : Int) - 127
    if newExp > 15 then assemble16 sg 0b11111 0x000
    else if newExp < -14 then assemble16 sg 0b00000 0x000
    else assemble16 sg (BitVec.ofInt 5 (newExp + 15)) (m.extractLsb' 13 10)

/-- `Enc16` (R84): the NaN test comes first (90_conflicts.md C2). -/
def enc16 (s : Word) : BitVec 16 := if isNaN32 s then nan16 else rebias16 s

/-- `EncBF` (R85): an exactly zero source gives +0 whatever its sign (D11, C1, log 8); infinities and NaNs are
canonical; every other word is truncated to its top 16 bits. -/
def encBF (s : Word) : BitVec 16 :=
  if isZero32 s then zeroBF
  else if isInf32 s then infBF (srcSign s)
  else if isNaN32 s then nanBF
  else s.extractLsb' 16 16

/-- `Enc_fmt` of R80. -/
def encodeTo (fmt : Fmt) (s : Word) : Pattern fmt :=
  match fmt with
  | .fp32 => enc32 s
  | .fp16 => enc16 s
  | .bf16 => encBF s

end Sys2Proof.Machine
end

