-- ==== Sys2Proof/Machine/Flags.lean ====
section
/-! DEFINITION. The precision-loss, overflow and underflow flags of 42_precision_loss.md: by values (R101 to R103, R105),
the same as bit tables over the source word (R106), and what the host adds for its own number (R107). -/

namespace Sys2Proof.Machine

/-- `LOSS` (R101) of an original and a final value. -/
def lossFlag (o f : Val) : Bool := !(o.isNaN && f.isNaN) && !numeq o f

/-- `OVF` (R102). -/
def ovfFlag (o f : Val) : Bool := lossFlag o f && o.isFinite && f.isInf

/-- `UNF` (R103). -/
def unfFlag (o f : Val) : Bool := lossFlag o f && f.isZero && !o.isZero

/-- Three flag bits in the order `LOSS OVF UNF`. -/
structure LossFlags where
  loss : Bool
  ovf : Bool
  unf : Bool
  deriving DecidableEq, Repr

/-- `LossFlags(o, f)` (R105). -/
def lossFlags (o f : Val) : LossFlags := ⟨lossFlag o f, ovfFlag o f, unfFlag o f⟩

/-- The flag tables of R106, case FP16, from the exponent and mantissa field of `SRC`. -/
def flagTable16 (s : Word) : LossFlags :=
  let e := (srcExp s).toNat
  if e = 0xFF then ⟨false, false, false⟩
  else if e = 0 then ⟨srcMan s != 0#23, false, srcMan s != 0#23⟩
  else if e ≤ 112 then ⟨true, false, true⟩
  else if e ≤ 142 then ⟨(srcMan s).extractLsb' 0 13 != 0#13, false, false⟩
  else ⟨true, true, false⟩

/-- The flag tables of R106, case BF16. -/
def flagTableBF (s : Word) : LossFlags :=
  if isNaN32 s || isInf32 s || isZero32 s then ⟨false, false, false⟩
  else ⟨s.extractLsb' 0 16 != 0#16, false, s.extractLsb' 16 15 == 0#15⟩

/-- The flags as functions of the bits of `SRC` (R106). The meanings use `lossFlags`; that the two agree is a
statement. -/
def flagTable (fmt : Fmt) (s : Word) : LossFlags :=
  match fmt with
  | .fp32 => ⟨false, false, false⟩
  | .fp16 => flagTable16 s
  | .bf16 => flagTableBF s

/-- The host's own three booleans for a number `v` it rounded to `v32` before sending it, from the block's flags (R107,
R133 duty 4). No response depends on it. `v` is any value of R7, which every binary host number is (log 15). That an overflow
or underflow of the rounding is also a loss follows. -/
def hostLossFlags (v v32 : Val) (block : LossFlags) : LossFlags :=
  let overflowed := v.isFinite && v32.isInf
  let underflowed := !v.isZero && v32.isZero
  ⟨block.loss || lossFlag v v32, block.ovf || overflowed, block.unf || underflowed⟩

end Sys2Proof.Machine
end

