-- ==== Sys2Proof/Machine/State.lean ====
section
/-! DEFINITION. The machine's state: the two ports of 10_state.md R14 and nothing else. R20 to R24 say that no register,
program counter, control register, memory or hidden state exists, and each absence is a field that is not here. -/

namespace Sys2Proof.Machine

/-- What stands on FPDEC's two ports at the transaction level (R14, D2; log 2). -/
structure State where
  /-- The command port: words the host has presented that the block has not performed yet, oldest first (R14, R36). -/
  cmdPort : List CmdWord
  /-- The response port: responses the block has given that the host has not taken yet, oldest first (R14, R36). -/
  rspPort : List Response
  deriving DecidableEq, Repr

/-- Why a step can stop with a fault: never. The type has no constructor because the block has no way to halt: a
`raise` ends ONE command with a `Fault(code)` response and "the block itself carries on" (R111, R120), and every numeric
path is total (R119). The two faults of R110 are responses (`FaultCode`), hence next states (log 1). -/
inductive Fault where
  deriving DecidableEq, Repr

/-- Why a step can be refused. -/
inductive Refusal where
  /-- Raised by an arm of `exec` whose instruction has no meaning yet. No arm of this model is in that case. Safe: the
  machine stops where the hardware goes on. -/
  | notModelled (mnemonic : String)
  deriving DecidableEq, Repr

/-- The block right after reset: idle, no command accepted, no response pending (R130, R25). -/
def State.reset : State := { cmdPort := [], rspPort := [] }

end Sys2Proof.Machine
end

