-- ==== Sys2Proof/Machine/Ops.lean ====
section
/-! DEFINITION. The named operations on the two ports: giving a response, raising a fault (60_exceptions.md R111), and
what the host does from outside (70_reset_and_hazards.md R133). There is no register and no memory to operate on (R20,
R30). -/

namespace Sys2Proof.Machine

/-- Give a response: it leaves the port after every response given before it (R36). -/
def State.respond (s : State) (r : Response) : State :=
  { s with rspPort := s.rspPort ++ [r] }

/-- `raise <Fault>` (R111), the block's whole exception entry: the command ends at once, its response is `Fault(code)`,
and nothing else changes: no state is saved, no mode changes and control goes nowhere (R116). There is no return from
it to model (R117): the next command starts clean. -/
def raiseFault (code : FaultCode) (s : State) : State := s.respond (.fault code)

/-- The oldest command word has left the command port; `rest` still stands there (R36). -/
def State.afterTake (s : State) (rest : List CmdWord) : State := { s with cmdPort := rest }

/-- The host presents a command word (R133). -/
def State.submit (s : State) (w : CmdWord) : State :=
  { s with cmdPort := s.cmdPort ++ [w] }

/-- The host takes the oldest response, if there is one (R133, R36). -/
def State.takeResponse (s : State) : Option (Response × State) :=
  match s.rspPort with
  | [] => none
  | r :: rest => some (r, { s with rspPort := rest })

/-- The reset input (R130): whatever stood on the ports, the block is idle with no response pending; a command in
flight is lost (R131, log 5). -/
def State.assertReset (_ : State) : State := State.reset

end Sys2Proof.Machine
end

