-- ==== Sys2Proof/Machine/Cvt.lean ====
section
/-! DEFINITION. The CVT family (41_convert.md R80, R86 to R88): encode the source word into the format, decompose the
encoded pattern, and report what the narrowing lost. No `CVT` faults. -/

namespace Sys2Proof.Machine

/-- The record a `CVT.fmt SRC` responds with (R80). -/
def convert (fmt : Fmt) (src : Word) : Fields :=
  let r := decompose fmt (encodeTo fmt src)
  let fl := lossFlags (v32 src) r.fv
  r.withFlags fl.loss fl.ovf fl.unf

/-- The common structure of R80. -/
def execCvt (fmt : Fmt) (src : Word) (s : State) : Host.Outcome State Fault Refusal :=
  .next (s.respond (.ok (convert fmt src)))

/-- `CVT.FP32 SRC` (R86). Its flags come from R80's common structure and are 0 for every `SRC` (R106; log 11). -/
def execCvtFp32 (src : Word) (s : State) : Host.Outcome State Fault Refusal := execCvt .fp32 src s

/-- `CVT.FP16 SRC` (R87). -/
def execCvtFp16 (src : Word) (s : State) : Host.Outcome State Fault Refusal := execCvt .fp16 src s

/-- `CVT.BF16 SRC` (R88). -/
def execCvtBf16 (src : Word) (s : State) : Host.Outcome State Fault Refusal := execCvt .bf16 src s

end Sys2Proof.Machine
end

