-- ==== Sys2Proof/Machine/Operands.lean ====
section
/-! DEFINITION. The one operand form: `SRC` used whole (30_encoding.md R45), with the operand check of the `DEC` commands
(40_decode.md R60). -/

namespace Sys2Proof.Machine

/-- `Operand(fmt, SRC)` of R60: the pattern `SRC[PW-1:0]`, or `MalformedOperand` when the pattern is 16 bits wide and
`SRC[31:16] ≠ 0`. -/
def operand (fmt : Fmt) (src : Word) : Except FaultCode (Pattern fmt) :=
  if fmt.pw = 16 ∧ src.extractLsb' 16 16 ≠ 0#16 then .error .malformedOperand
  else .ok (src.setWidth fmt.pw)

end Sys2Proof.Machine
end

