-- ==== Sys2Proof/Machine/Dec.lean ====
section
/-! DEFINITION. The DEC family (40_decode.md R71 to R73): check the operand, decompose the pattern, respond with the
three loss flags 0. `DEC` echoes its operand and never replaces a NaN (D21). -/

namespace Sys2Proof.Machine

/-- The common structure of R71 to R73. -/
def execDec (fmt : Fmt) (src : Word) (s : State) : Host.Outcome State Fault Refusal :=
  match operand fmt src with
  | .error code => .next (raiseFault code s)
  | .ok p => .next (s.respond (.ok ((decompose fmt p).withFlags false false false)))

/-- `DEC.FP32 SRC` (R71): total on all `2^32` operands. -/
def execDecFp32 (src : Word) (s : State) : Host.Outcome State Fault Refusal := execDec .fp32 src s

/-- `DEC.FP16 SRC` (R72): `MalformedOperand` iff `SRC[31:16] ≠ 0`. -/
def execDecFp16 (src : Word) (s : State) : Host.Outcome State Fault Refusal := execDec .fp16 src s

/-- `DEC.BF16 SRC` (R73): `MalformedOperand` iff `SRC[31:16] ≠ 0`. -/
def execDecBf16 (src : Word) (s : State) : Host.Outcome State Fault Refusal := execDec .bf16 src s

end Sys2Proof.Machine
end

