-- ==== Sys2Proof/Machine/Dispatch.lean ====
section
/-! DEFINITION. `exec`: one arm per command, each a direct call of that command's meaning. -/

namespace Sys2Proof.Machine

def exec (i : Instr) (s : State) : Host.Outcome State Fault Refusal :=
  match i with
  | .decFp32 src => Sys2Proof.Machine.execDecFp32 src s
  | .decFp16 src => Sys2Proof.Machine.execDecFp16 src s
  | .decBf16 src => Sys2Proof.Machine.execDecBf16 src s
  | .cvtFp32 src => Sys2Proof.Machine.execCvtFp32 src s
  | .cvtFp16 src => Sys2Proof.Machine.execCvtFp16 src s
  | .cvtBf16 src => Sys2Proof.Machine.execCvtBf16 src s

end Sys2Proof.Machine
end

