-- ==== Sys2Proof/Machine/Perform.lean ====
section
/-! DEFINITION. Performing one command word: decode first, so that `IllegalCommand` is decided before any operand is
looked at (60_exceptions.md R115), then the command's meaning. -/

namespace Sys2Proof.Machine

/-- Decode the word (R53) and perform the command; a word that is no command raises `IllegalCommand` (R112). -/
def performWord (w : CmdWord) (s : State) : Host.Outcome State Fault Refusal :=
  match decodeCommand w with
  | .ok i => exec i s
  | .error code => .next (raiseFault code s)

end Sys2Proof.Machine
end

