-- ==== Sys2Proof/Machine/Step.lean ====
section
/-! DEFINITION. One step: one command with its response (10_state.md R14). The block takes the oldest command word from
the command port and performs it. With no command at the port the block is idle and nothing changes (R130, log 3). -/

namespace Sys2Proof.Machine

/-- One step of FPDEC. -/
def step (s : State) : Host.Outcome State Fault Refusal :=
  match s.cmdPort with
  | [] => .next s
  | w :: rest => performWord w (s.afterTake rest)

/-- A table word presented as the very next command: it stands first at the command port, before anything the host has
queued there (log 6). -/
def State.withFetchWord (s : State) (nbits w : Nat) : State :=
  { s with cmdPort := tableCmdWord nbits w :: s.cmdPort }

end Sys2Proof.Machine
end

