-- ==== Sys2Proof/Machine/Assembler.lean ====
section
/-! DEFINITION. The assembler text of 30_encoding.md R52, as lists of characters: `<mnemonic> <operand>` with the operand
a hexadecimal literal of eight digits, and the encoding of a line as ten hexadecimal digits. The `f32(…)` form is not
here: its rounding is the writer's, "never by the block" (R52), and out of scope (00_scope.md R4). -/

namespace Sys2Proof.Machine

/-- A hexadecimal digit, printed in capitals as the spec prints it. -/
def hexDigit (n : Nat) : Char :=
  ['0', '1', '2', '3', '4', '5', '6', '7', '8', '9', 'A', 'B', 'C', 'D', 'E', 'F'].getD n '0'

/-- The value of a hexadecimal digit; small letters are read too (log 16). -/
def hexValue (c : Char) : Option Nat :=
  let n := c.toNat
  if 48 ≤ n ∧ n ≤ 57 then some (n - 48)
  else if 65 ≤ n ∧ n ≤ 70 then some (n - 55)
  else if 97 ≤ n ∧ n ≤ 102 then some (n - 87)
  else none

/-- The low `k` hexadecimal digits of a number, most significant first. -/
def hexDigits : Nat → Nat → List Char
  | 0, _ => []
  | k + 1, n => hexDigits k (n / 16) ++ [hexDigit (n % 16)]

/-- A number from its hexadecimal digits, most significant first, given what stands before them. -/
def readHex : List Char → Nat → Option Nat
  | [], acc => some acc
  | c :: cs, acc =>
    match hexValue c with
    | some d => readHex cs (acc * 16 + d)
    | none => none

/-- The mnemonic of R44. -/
def mnemonic : Instr → List Char
  | .decFp32 _ => ['D', 'E', 'C', '.', 'F', 'P', '3', '2']
  | .decFp16 _ => ['D', 'E', 'C', '.', 'F', 'P', '1', '6']
  | .decBf16 _ => ['D', 'E', 'C', '.', 'B', 'F', '1', '6']
  | .cvtFp32 _ => ['C', 'V', 'T', '.', 'F', 'P', '3', '2']
  | .cvtFp16 _ => ['C', 'V', 'T', '.', 'F', 'P', '1', '6']
  | .cvtBf16 _ => ['C', 'V', 'T', '.', 'B', 'F', '1', '6']

/-- The line of a command (R52): `CVT.FP16 0x4788B800`. -/
def printLine (i : Instr) : List Char :=
  mnemonic i ++ [' ', '0', 'x'] ++ hexDigits 8 i.src.toNat

/-- The encoding of a line as R52 writes it: `0x214788B800`. -/
def printWord (w : CmdWord) : List Char := ['0', 'x'] ++ hexDigits 10 w.toNat

/-- The command a mnemonic names, given its operand (R44). -/
def ofMnemonic (m : List Char) (src : Word) : Option Instr :=
  if m = mnemonic (.decFp32 src) then some (.decFp32 src)
  else if m = mnemonic (.decFp16 src) then some (.decFp16 src)
  else if m = mnemonic (.decBf16 src) then some (.decBf16 src)
  else if m = mnemonic (.cvtFp32 src) then some (.cvtFp32 src)
  else if m = mnemonic (.cvtFp16 src) then some (.cvtFp16 src)
  else if m = mnemonic (.cvtBf16 src) then some (.cvtBf16 src)
  else none

/-- The command of a line; none for a line that is not of R52's form. -/
def parseLine (line : List Char) : Option Instr :=
  if line.length = 19 ∧ (line.drop 8).take 3 = [' ', '0', 'x'] then
    match readHex (line.drop 11) 0 with
    | some n => ofMnemonic (line.take 8) (BitVec.ofNat 32 n)
    | none => none
  else none

end Sys2Proof.Machine
end

