-- ==== Sys2Proof/Machine/Wire.lean ====
section
/-! DEFINITION. The 128-bit response word of 30_encoding.md R47 to R51: `pack` is what the block puts on the response
port, `unpack` what the host reads from it. -/

namespace Sys2Proof.Machine

/-- The 3-bit code of a class (R49). -/
def Cls.code : Cls → BitVec 3
  | .normal => 0
  | .zero => 1
  | .infinity => 2
  | .nan => 3
  | .denormalized => 4

/-- The class of a code; codes 5, 6 and 7 are never produced (R49). -/
def clsOfCode (c : BitVec 3) : Option Cls :=
  if c = 0 then some .normal
  else if c = 1 then some .zero
  else if c = 2 then some .infinity
  else if c = 3 then some .nan
  else if c = 4 then some .denormalized
  else none

/-- The `ERR` code of a fault (R50). -/
def errCode : FaultCode → BitVec 2
  | .illegalCommand => 1
  | .malformedOperand => 2

/-- The fault of an `ERR` code; 0 is no fault and 3 is never produced (R50). -/
def faultOfCode (c : BitVec 2) : Option FaultCode :=
  if c = 1 then some .illegalCommand else if c = 2 then some .malformedOperand else none

/-- The response word of an `Ok` record (R47), most significant field first. -/
def packFields (r : Fields) : RspWord :=
  0#13 ++ 0#2 ++ BitVec.ofBool r.unf ++ BitVec.ofBool r.ovf ++ BitVec.ofBool r.loss ++ r.cls.code ++
    BitVec.ofBool r.spc ++ BitVec.ofBool r.sgn ++ r.expv ++ r.expb ++ BitVec.ofBool r.hid ++ r.man ++ r.fv32 ++ r.bits

/-- The response word (R47); a fault is its `ERR` code with zero filler in every other bit (R51). -/
def pack : Response → RspWord
  | .ok r => packFields r
  | .fault code => 0#13 ++ errCode code ++ 0#113

/-- The record a host reads from the fields of an `Ok` word (R47); `FV` is the value its wire form `FV32` denotes
(D10). -/
def readFields (w : RspWord) (cls : Cls) : Fields :=
  { bits := w.extractLsb' 0 32
    sgn := w.getLsbD 105
    expb := w.extractLsb' 88 8
    expv := w.extractLsb' 96 9
    man := w.extractLsb' 64 23
    hid := w.getLsbD 87
    spc := w.getLsbD 106
    cls := cls
    fv32 := w.extractLsb' 32 32
    loss := w.getLsbD 110
    ovf := w.getLsbD 111
    unf := w.getLsbD 112
    fv := v32 (w.extractLsb' 32 32) }

/-- What a host reads from a response word: none for a word no response of this block has (`RSP[127:115] ≠ 0`, `ERR` 3,
`CLS` 5 to 7: U10). A fault's data bits are not read (U7). -/
def unpack (w : RspWord) : Option Response :=
  if w.extractLsb' 115 13 ≠ 0#13 then none
  else if w.extractLsb' 113 2 = 0#2 then
    (clsOfCode (w.extractLsb' 107 3)).map fun cls => .ok (readFields w cls)
  else (faultOfCode (w.extractLsb' 113 2)).map .fault

end Sys2Proof.Machine
end

