-- ==== Sys2Proof/Machine/Transaction.lean ====
section
/-! DEFINITION. A whole transaction as a function of its command word (10_state.md R24), written from the spec's rules
without the ports: what the step is held against. -/

namespace Sys2Proof.Machine

/-- The response a `DEC` command computes (R71 to R73). -/
def decResponse (fmt : Fmt) (src : Word) : Response :=
  match operand fmt src with
  | .error code => .fault code
  | .ok p => .ok (decompose fmt p)

/-- The response a decoded command computes. -/
def responseOf : Instr → Response
  | .decFp32 src => decResponse .fp32 src
  | .decFp16 src => decResponse .fp16 src
  | .decBf16 src => decResponse .bf16 src
  | .cvtFp32 src => .ok (convert .fp32 src)
  | .cvtFp16 src => .ok (convert .fp16 src)
  | .cvtBf16 src => .ok (convert .bf16 src)

/-- "The response to a command is a function of that command word alone" (R24): that function. -/
def responseTo (w : CmdWord) : Response :=
  match decodeCommand w with
  | .ok i => responseOf i
  | .error code => .fault code

/-- The response word for a command word: what the host sees of one transaction (R14, R133). -/
def transact (w : CmdWord) : RspWord := pack (responseTo w)

end Sys2Proof.Machine
end

