-- ==== Sys2Proof/Safety.lean ====
section
/-! DEFINITION. What claims call a good run and a lawful response port. A `Fault` response is a failed run, never a final
state that satisfies a postcondition (60_exceptions.md R120); the block itself carries on. -/

namespace Sys2Proof.Machine

/-- A command word that keeps the host's duties 1 and 2 (R133): one of the six encodings, with a well-formed operand. -/
def dutiful (w : CmdWord) : Bool :=
  match decodeCommand w with
  | .ok i => i.wellFormed
  | .error _ => false

/-- No response on the port is a fault (R120, R133 duty 5). -/
def faultFree (s : State) : Bool := s.rspPort.all fun r => !r.isFault

/-- The host has kept duties 1 and 2 so far and no response on the port is a fault. -/
def goodRun (s : State) : Bool := s.cmdPort.all dutiful && faultFree s

/-- The equations a record of profile `fmt` obeys: R16 (`SGN`, `EXPB`, `MAN` repeat bits of `BITS`; `SPC` iff `CLS` is
not Normal), the bits above the pattern zero (R15), `EXPV` (R48), `CLS` from the fields (R64), `HID` (R65 to R69), and
each of `OVF`, `UNF` implying `LOSS` and excluding the other (R105). -/
def lawfulFields (fmt : Fmt) (r : Fields) : Bool :=
  r.bits.toNat < 2 ^ fmt.pw
    && r.sgn == r.bits.getLsbD (fmt.pw - 1)
    && r.expb == (r.bits.extractLsb' fmt.mw fmt.ew).setWidth 8
    && r.man == (r.bits.extractLsb' 0 fmt.mw).setWidth 23
    && r.expv == BitVec.ofInt 9 ((r.expb.toNat : Int) - fmt.bias)
    && r.spc == (r.cls != .normal)
    && r.spc == (r.expb.toNat == 0 || r.expb.toNat == fmt.maxb)
    && r.hid == !r.spc
    && r.cls == classify fmt r.expb r.man
    && (!r.ovf || r.loss) && (!r.unf || r.loss) && !(r.ovf && r.unf)
    && r.fv.wf

/-- A response some command of this block could have (R16: "a response that breaks one of these equations is not a
response of this block"). -/
def lawfulResponse : Response → Bool
  | .ok r => lawfulFields .fp32 r || lawfulFields .fp16 r || lawfulFields .bf16 r
  | .fault _ => true

/-- Every response on the port is lawful. -/
def lawfulPort (s : State) : Bool := s.rspPort.all lawfulResponse

/-- R61 on the number `uint(p)`: what the record of a pattern holds, by division and remainder instead of bit slices
(R62 to R69), flags and `FV32` left out. -/
structure Describes (fmt : Fmt) (p : Pattern fmt) (r : Fields) : Prop where
  bits : r.bits.toNat = p.toNat
  sgn : r.sgn = decide (2 ^ (fmt.pw - 1) ≤ p.toNat)
  expb : r.expb.toNat = p.toNat / 2 ^ fmt.mw % 2 ^ fmt.ew
  man : r.man.toNat = p.toNat % 2 ^ fmt.mw
  expv : r.expv.toInt = (r.expb.toNat : Int) - (2 ^ (fmt.ew - 1) - 1)
  infinity : r.cls = .infinity ↔ r.expb.toNat = 2 ^ fmt.ew - 1 ∧ r.man.toNat = 0
  nan : r.cls = .nan ↔ r.expb.toNat = 2 ^ fmt.ew - 1 ∧ r.man.toNat ≠ 0
  zero : r.cls = .zero ↔ r.expb.toNat = 0 ∧ r.man.toNat = 0
  denormalized : r.cls = .denormalized ↔ r.expb.toNat = 0 ∧ r.man.toNat ≠ 0
  hid : r.hid = true ↔ r.cls = .normal
  spc : r.spc = true ↔ r.cls ≠ .normal
  fvInfinity : r.cls = .infinity → r.fv = .inf r.sgn
  fvNaN : r.cls = .nan → r.fv = .nan
  fvZero : r.cls = .zero → r.fv = .zero r.sgn
  fvDenormalized : r.cls = .denormalized →
    r.fv = .fin r.sgn r.man.toNat (1 - (2 ^ (fmt.ew - 1) - 1) - fmt.mw)
  fvNormal : r.cls = .normal → r.fv = .fin r.sgn (2 ^ fmt.mw + r.man.toNat) (r.expv.toInt - fmt.mw)

/-- The value `a` lies below the value `b`, with `Inf(0)` above every finite value (R74 law 6). -/
def valueBelow (a b : Val) : Prop :=
  match a.toRat, b.toRat with
  | some x, some y => x < y
  | some _, none => b = .inf false
  | _, _ => False

end Sys2Proof.Machine
end

