-- ==== Sys2Proof/Certificates/Slice0/Obligations.lean ====
section
/-! DEFINITION. The statements about FPDEC. Each docstring names the rules of spec/ it formalises. -/

open Sys2Proof Sys2Proof.Machine

/-! ### Command words -/

/-- R44 on words written out from its table (operands from 95_test_vectors.md), and words R46 rejects. -/
def Obligations.WordsOfTheOpcodeMapDecode : Prop :=
  decodeCommand 0x10BDCCCCCD = .ok (.decFp32 0xBDCCCCCD)
    ∧ decodeCommand 0x11000003FF = .ok (.decFp16 0x000003FF)
    ∧ decodeCommand 0x120000BDCC = .ok (.decBf16 0x0000BDCC)
    ∧ decodeCommand 0x20FFC12345 = .ok (.cvtFp32 0xFFC12345)
    ∧ decodeCommand 0x214788B800 = .ok (.cvtFp16 0x4788B800)
    ∧ decodeCommand 0x2280000001 = .ok (.cvtBf16 0x80000001)
    ∧ decodeCommand 0x0000000000 = .error .illegalCommand
    ∧ decodeCommand 0x1312348000 = .error .illegalCommand
    ∧ decodeCommand 0x1400000000 = .error .illegalCommand
    ∧ decodeCommand 0x2900000000 = .error .illegalCommand

/-- Encoding a command and decoding the word gives the command back, with every operand at every value (R40, R44, R45,
R53). -/
def Obligations.DecodeOfEncodeIsTheCommand : Prop :=
  ∀ i : Instr, decodeCommand (encode i) = .ok i

/-- A word that decodes is the encoding of what it decodes to: no word is a second spelling of a command (R44, R53). -/
def Obligations.EncodeOfDecodeIsTheWord : Prop :=
  ∀ (w : CmdWord) (i : Instr), decodeCommand w = .ok i → encode i = w

/-- R44: the six rows with their numbers; a word is the command of a row iff it matches the row under the mask; the six
matches are pairwise different, so at most one row matches. -/
def Obligations.OpcodeMapSelectsTheCommand : Prop :=
  (∀ src : Word,
      (Instr.decFp32 src).row = ⟨1, 0, 0x10, 0x1000000000, 0xFF00000000⟩
      ∧ (Instr.decFp16 src).row = ⟨1, 1, 0x11, 0x1100000000, 0xFF00000000⟩
      ∧ (Instr.decBf16 src).row = ⟨1, 2, 0x12, 0x1200000000, 0xFF00000000⟩
      ∧ (Instr.cvtFp32 src).row = ⟨2, 0, 0x20, 0x2000000000, 0xFF00000000⟩
      ∧ (Instr.cvtFp16 src).row = ⟨2, 1, 0x21, 0x2100000000, 0xFF00000000⟩
      ∧ (Instr.cvtBf16 src).row = ⟨2, 2, 0x22, 0x2200000000, 0xFF00000000⟩)
    ∧ (∀ (w : CmdWord) (i : Instr),
        decodeCommand w = .ok i ↔ w &&& i.row.maskWord = i.row.matchWord ∧ i.src = cmdSrc w)
    ∧ (∀ (w : CmdWord) (i : Instr), decodeCommand w = .ok i →
        cmdOp w = i.row.op ∧ cmdRsv w = 0 ∧ cmdFmt w = i.row.fmtCode ∧ cmdCtl w = i.row.ctl)
    ∧ ∀ (w : CmdWord) (i j : Instr), w &&& i.row.maskWord = i.row.matchWord →
        w &&& j.row.maskWord = j.row.matchWord → i.row = j.row

/-- R46: a word is illegal iff `OP` is not 1 or 2, or `FMT = 0b11`, or `RSV ≠ 0b00`; equivalently `CTL` is not one of
the six; 250 of the 256 control bytes are illegal, whatever `SRC` holds; every other word is a command. -/
def Obligations.IllegalExactlyWhenAFieldIsReserved : Prop :=
  (∀ w : CmdWord, decodeCommand w = .error .illegalCommand ↔
      ((cmdOp w ≠ 1 ∧ cmdOp w ≠ 2) ∨ cmdFmt w = 3 ∨ cmdRsv w ≠ 0))
    ∧ (∀ w : CmdWord, decodeCommand w = .error .illegalCommand ↔
        cmdCtl w ∉ [0x10#8, 0x11#8, 0x12#8, 0x20#8, 0x21#8, 0x22#8])
    ∧ (∀ src : Word, ((List.range 256).filter fun c =>
        decide (decodeCommand (BitVec.ofNat 8 c ++ src) = .error .illegalCommand)).length = 250)
    ∧ ∀ w : CmdWord, decodeCommand w = .error .illegalCommand ∨ ∃ i, decodeCommand w = .ok i

/-- R52: the line of a command is read back as that command, and the ten digits of its encoding are the command word. -/
def Obligations.AssemblerLineReadsBack : Prop :=
  ∀ i : Instr, parseLine (printLine i) = some i
    ∧ (printLine i).length = 19
    ∧ readHex ((printWord (encode i)).drop 2) 0 = some (i.ctl.toNat * 2 ^ 32 + i.src.toNat)
    ∧ (printWord (encode i)).length = 12

/-! ### Steps and ports -/

/-- A step runs the decoded command at the state whose command port has lost that word (R14, R53). Second clause, the
MODEL'S CHOICE and no rule of the spec (log 6, DESIGN CHOICE): a table word that `withFetchWord` places stands first at
the command port, so the very next step runs it at the state it was placed in. -/
def Obligations.StepRunsTheDecodedCommand : Prop :=
  (∀ (s : State) (w : CmdWord) (rest : List CmdWord) (i : Instr),
      s.cmdPort = w :: rest → decodeCommand w = .ok i →
        step s = exec i { cmdPort := rest, rspPort := s.rspPort })
    ∧ ∀ (s : State) (nbits w : Nat) (i : Instr), decodeTableWord nbits w = some i →
        step (s.withFetchWord nbits w) = exec i s

/-- R112: a word raises `IllegalCommand` iff `OP` is not 1 or 2, or `RSV ≠ 0b00`, or `FMT = 0b11`, whatever its operand:
the step completes, the response is `Fault(IllegalCommand)`, and nothing else changes. -/
def Obligations.ReservedWordRespondsIllegalCommand : Prop :=
  ∀ (s : State) (w : CmdWord) (rest : List CmdWord), s.cmdPort = w :: rest →
    ((cmdOp w ≠ 1 ∧ cmdOp w ≠ 2) ∨ cmdRsv w ≠ 0 ∨ cmdFmt w = 3 →
        step s = .next { cmdPort := rest, rspPort := s.rspPort ++ [.fault .illegalCommand] })
      ∧ ((cmdOp w = 1 ∨ cmdOp w = 2) → cmdRsv w = 0 → cmdFmt w ≠ 3 →
          step s ≠ .next { cmdPort := rest, rspPort := s.rspPort ++ [.fault .illegalCommand] })

/-- R14: every command produces exactly one response, and a response is produced only by a command: a step without one
gives none. -/
def Obligations.OneResponsePerCommand : Prop :=
  (∀ (s : State) (w : CmdWord) (rest : List CmdWord), s.cmdPort = w :: rest →
      ∃ r : Response, step s = .next { cmdPort := rest, rspPort := s.rspPort ++ [r] })
    ∧ ∀ s t : State, s.cmdPort = [] → step s = .next t → t.rspPort = s.rspPort

/-- R24: the response to a command is a function of the command word alone: of the queue behind it, of the responses
before it and of the faults among them, it is independent; and two equal words get equal 128-bit responses. -/
def Obligations.ResponseIsAFunctionOfTheCommandWord : Prop :=
  ∃ f : CmdWord → Response, ∀ (s : State) (w : CmdWord) (rest : List CmdWord), s.cmdPort = w :: rest →
    ∃ t : State, step s = .next t ∧ t.cmdPort = rest ∧ t.rspPort = s.rspPort ++ [f w]
      ∧ t.rspPort.map pack = s.rspPort.map pack ++ [transact w]

/-- R36: responses leave in the order their commands entered: performing the first commands of a queue appends exactly
their responses, the n-th response the n-th command's, and leaves the rest of the queue. -/
def Obligations.ResponsesInCommandOrder : Prop :=
  ∀ (ws tail : List CmdWord) (rs : List Response),
    core.run ws.length (⟨ws ++ tail, rs⟩ : State) = .next (⟨tail, rs ++ ws.map responseTo⟩ : State)

/-- R111: a faulting command changes nothing for the next one: it is performed exactly as if the faulting one had never
been sent, and the faulting one's whole effect is its `Fault(code)` response, on the wire `ERR = code` and every other
bit zero (R51; the zeros are filler, U7, and no other statement rests on them but the one that states R51). -/
def Obligations.FaultLeavesNoTrace : Prop :=
  ∀ (w v : CmdWord) (code : FaultCode) (rest : List CmdWord) (rs : List Response), responseTo w = .fault code →
    ∃ r : Response,
      core.run 2 (⟨w :: v :: rest, rs⟩ : State) = .next (⟨rest, rs ++ [.fault code, r]⟩ : State)
        ∧ step (⟨v :: rest, rs⟩ : State) = .next (⟨rest, rs ++ [r]⟩ : State)
        ∧ (transact w).toNat = (errCode code).toNat * 2 ^ 113

/-- R135: reordering the commands reorders the responses with them and changes nothing else; dropping a command drops
exactly its response. -/
def Obligations.CommandsAreIndependent : Prop :=
  (∀ us vs : List CmdWord, us.Perm vs → ∃ rs qs : List Response,
      core.run us.length (⟨us, []⟩ : State) = .next (⟨[], rs⟩ : State)
        ∧ core.run vs.length (⟨vs, []⟩ : State) = .next (⟨[], qs⟩ : State)
        ∧ (us.zip rs).Perm (vs.zip qs))
    ∧ ∀ (us vs : List CmdWord) (w : CmdWord), ∃ (rs qs : List Response) (r : Response),
        core.run (us.length + 1 + vs.length) (⟨us ++ w :: vs, []⟩ : State) = .next (⟨[], rs ++ r :: qs⟩ : State)
          ∧ core.run (us.length + vs.length) (⟨us ++ vs, []⟩ : State) = .next (⟨[], rs ++ qs⟩ : State)
          ∧ rs.length = us.length

/-- The frame of every command: it completes in every state, leaves the commands behind it and every earlier response as
they were, and appends one response that does not depend on the state (R18, R20 to R24, R34). -/
def Obligations.EveryCommandOnlyAppendsItsResponse : Prop :=
  ∀ i : Instr, ∃ r : Response, ∀ s : State, exec i s = .next { cmdPort := s.cmdPort, rspPort := s.rspPort ++ [r] }

/-- R130: the state after reset is the state after any completed command, once the host has taken its response; R36:
that response is the first after reset. Reset from any state is that state (log 5). -/
def Obligations.CompletedCommandLeavesTheResetState : Prop :=
  ∀ (s : State) (w : CmdWord), ∃ (t : State) (r : Response),
    step (s.assertReset.submit w) = .next t ∧ t.takeResponse = some (r, State.reset) ∧ r = responseTo w

/-- R25 and R130: after reset no response is pending; its port is lawful and free of faults. That a step of the idle
block answers the same state is the MODEL'S CHOICE (log 3, DESIGN CHOICE). -/
def Obligations.ResetIsIdleAndLawful : Prop :=
  State.reset.rspPort = [] ∧ State.reset.takeResponse = none ∧ step State.reset = .next State.reset
    ∧ lawfulPort State.reset = true ∧ goodRun State.reset = true

/-- From every state whose responses are lawful, a step gives such a state: every response FPDEC gives obeys R16, R15's
right alignment, R48, R64 to R69's class split and R105's flag implications. -/
def Obligations.StepKeepsThePortLawful : Prop :=
  ∀ s : State, lawfulPort s = true → ∃ t : State, step s = .next t ∧ lawfulPort t = true

/-- R133 duties 1 and 2 with R120: a host that sends only the six encodings, with the upper half clear on the 16-bit
`DEC`, never sees a fault, whatever else the operands are; and every word that breaks a duty is answered by a fault. -/
def Obligations.DutifulHostSeesNoFault : Prop :=
  (∀ s : State, goodRun s = true → ∃ t : State, step s = .next t ∧ goodRun t = true)
    ∧ ∀ w : CmdWord, (responseTo w).isFault = true ↔ dutiful w = false

/-! ### DEC -/

/-- R60: the pattern is `SRC[PW-1:0]`; for FP16 and BF16 a non-zero upper half is `MalformedOperand`; for FP32 the check
is vacuous. -/
def Obligations.OperandIsTheRightAlignedPattern : Prop :=
  ∀ src : Word,
    operand .fp32 src = .ok src
      ∧ (src.toNat < 2 ^ 16 → operand .fp16 src = .ok (BitVec.ofNat 16 src.toNat)
          ∧ operand .bf16 src = .ok (BitVec.ofNat 16 src.toNat))
      ∧ (2 ^ 16 ≤ src.toNat → operand .fp16 src = .error .malformedOperand
          ∧ operand .bf16 src = .error .malformedOperand)

/-- `DEC.FP32` completes on every operand (R71): it echoes the operand, describes its fields, class and value (R61 to
R69), gives the operand as `FV32` unless it is a NaN, and flags nothing (R104). -/
def Obligations.DecFp32Result : Prop :=
  ∀ (src : Word) (s : State), ∃ r : Fields,
    exec (.decFp32 src) s = .next { cmdPort := s.cmdPort, rspPort := s.rspPort ++ [.ok r] }
      ∧ r.bits = src ∧ Describes .fp32 src r
      ∧ r.fv32 = (if src.extractLsb' 23 8 = 0xFF#8 ∧ src.extractLsb' 0 23 ≠ 0#23 then 0x7F800001 else src)
      ∧ r.loss = false ∧ r.ovf = false ∧ r.unf = false

/-- `DEC.FP16` completes on every operand with a zero upper half (R72): it echoes the pattern, describes its fields,
class and value, gives the value's FP32 pattern, and flags nothing. -/
def Obligations.DecFp16Result : Prop :=
  ∀ (src : Word) (s : State), src.extractLsb' 16 16 = 0#16 → ∃ r : Fields,
    exec (.decFp16 src) s = .next { cmdPort := s.cmdPort, rspPort := s.rspPort ++ [.ok r] }
      ∧ r.bits = src ∧ Describes .fp16 (src.extractLsb' 0 16) r
      ∧ sameValue (v32 r.fv32) r.fv = true ∧ (r.cls = .nan → r.fv32 = 0x7F800001)
      ∧ r.loss = false ∧ r.ovf = false ∧ r.unf = false

/-- `DEC.BF16` completes on every operand with a zero upper half (R73): as `DEC.FP16`, with `FV32` the pattern in the
upper half and zeros below unless it is a NaN. -/
def Obligations.DecBf16Result : Prop :=
  ∀ (src : Word) (s : State), src.extractLsb' 16 16 = 0#16 → ∃ r : Fields,
    exec (.decBf16 src) s = .next { cmdPort := s.cmdPort, rspPort := s.rspPort ++ [.ok r] }
      ∧ r.bits = src ∧ Describes .bf16 (src.extractLsb' 0 16) r
      ∧ r.fv32 = (if r.cls = .nan then 0x7F800001 else src.extractLsb' 0 16 ++ 0#16)
      ∧ r.loss = false ∧ r.ovf = false ∧ r.unf = false

/-- R113, cause in full: `MalformedOperand` is raised iff the command is `DEC.FP16` or `DEC.BF16` and `SRC[31:16] ≠ 0`;
then the response is `Fault(2)` and nothing else changes (R111). -/
def Obligations.MalformedOperandExactlyOnAWidePattern : Prop :=
  (∀ (src : Word) (s : State), src.extractLsb' 16 16 ≠ 0#16 →
      exec (.decFp16 src) s = .next { cmdPort := s.cmdPort, rspPort := s.rspPort ++ [.fault .malformedOperand] }
        ∧ exec (.decBf16 src) s = .next { cmdPort := s.cmdPort, rspPort := s.rspPort ++ [.fault .malformedOperand] })
    ∧ ∀ (i : Instr) (s t : State) (code : FaultCode), exec i s = .next t →
        t.rspPort = s.rspPort ++ [.fault code] →
          code = .malformedOperand ∧ (i = .decFp16 i.src ∨ i = .decBf16 i.src) ∧ i.src.extractLsb' 16 16 ≠ 0#16

/-- R119: `DEC.FP32` and the three `CVT` never fault, whatever `SRC` holds; `DEC.FP16` and `DEC.BF16` never fault when
`SRC[31:16] = 0`. -/
def Obligations.NumericPathsNeverFault : Prop :=
  ∀ (src : Word) (s : State),
    (∀ i ∈ [Instr.decFp32 src, .cvtFp32 src, .cvtFp16 src, .cvtBf16 src],
        ∃ r : Fields, exec i s = .next { cmdPort := s.cmdPort, rspPort := s.rspPort ++ [.ok r] })
      ∧ (src.extractLsb' 16 16 = 0#16 → ∀ i ∈ [Instr.decFp16 src, .decBf16 src],
          ∃ r : Fields, exec i s = .next { cmdPort := s.cmdPort, rspPort := s.rspPort ++ [.ok r] })

/-! ### Decode(fmt, p) -/

/-- R16, and R74 laws 1 and 3: `SGN`, `EXPB` and `MAN` are the slices of `BITS`, they put the pattern together again, the
bits of `BITS` above the pattern are zero, and `SPC = 1` iff `CLS ≠ Normal`. -/
def Obligations.FieldsReassembleThePattern : Prop :=
  ∀ (fmt : Fmt) (p : Pattern fmt),
    let r := decompose fmt p
    r.bits.toNat = p.toNat
      ∧ r.sgn = r.bits.getLsbD (fmt.pw - 1)
      ∧ r.expb = (r.bits.extractLsb' fmt.mw (fmt.pw - 1 - fmt.mw)).setWidth 8
      ∧ r.man = (r.bits.extractLsb' 0 fmt.mw).setWidth 23
      ∧ p.toNat = r.sgn.toNat * 2 ^ (fmt.pw - 1) + r.expb.toNat * 2 ^ fmt.mw + r.man.toNat
      ∧ (r.spc = true ↔ r.cls ≠ .normal)

/-- R48 and R63: `EXPB` is the exponent field in `[0, MAXB]`; `EXPV` is `trunc_9(EXPB - BIAS)` for every pattern, and
nine bits hold it: it lies in `[-127, 128]` for FP32 and BF16, in `[-15, 16]` for FP16; `-BIAS` on a zero exponent
field, `BIAS + 1` on an all-ones one. -/
def Obligations.DebiasedExponentIsExact : Prop :=
  (∀ (fmt : Fmt) (p : Pattern fmt),
      let r := decompose fmt p
      r.expb.toNat = p.toNat / 2 ^ fmt.mw % 2 ^ fmt.ew
        ∧ r.expb.toNat ≤ fmt.maxb
        ∧ r.expv = BitVec.ofInt 9 ((r.expb.toNat : Int) - fmt.bias)
        ∧ r.expv.toInt = (r.expb.toNat : Int) - fmt.bias
        ∧ (r.expb = 0 → r.expv.toInt = -(fmt.bias : Int))
        ∧ (r.expb.toNat = fmt.maxb → r.expv.toInt = (fmt.bias : Int) + 1))
    ∧ (∀ p : Pattern .fp32, -127 ≤ (decompose .fp32 p).expv.toInt ∧ (decompose .fp32 p).expv.toInt ≤ 128)
    ∧ (∀ p : Pattern .bf16, -127 ≤ (decompose .bf16 p).expv.toInt ∧ (decompose .bf16 p).expv.toInt ≤ 128)
    ∧ (∀ p : Pattern .fp16, -15 ≤ (decompose .fp16 p).expv.toInt ∧ (decompose .fp16 p).expv.toInt ≤ 16)
    ∧ [-127, -15, -4, 0, 16, 128].map (BitVec.ofInt 9) = [0x181, 0x1F1, 0x1FC, 0x000, 0x010, 0x080]

/-- R64, and R74 laws 2 and 4: `MAN` is the mantissa field and `FRAC = MAN / 2^M` in `[0, 1)` is zero iff `MAN` is; the
class is decided by `EXPB = MAXB`, `EXPB = 0` and `MAN = 0`; `SPC = 1` exactly when `EXPB` is 0 or `MAXB`, and exactly
when the class is one of the four special ones; the implicit bit is present for normals alone. -/
def Obligations.ClassesPartitionThePatterns : Prop :=
  ∀ (fmt : Fmt) (p : Pattern fmt),
    let r := decompose fmt p
    r.man.toNat = p.toNat % 2 ^ fmt.mw
      ∧ r.frac fmt = (r.man.toNat : Rat) / 2 ^ fmt.mw ∧ 0 ≤ r.frac fmt ∧ r.frac fmt < 1
      ∧ (r.frac fmt = 0 ↔ r.man = 0)
      ∧ (r.cls = .infinity ↔ r.expb.toNat = fmt.maxb ∧ r.man = 0)
      ∧ (r.cls = .nan ↔ r.expb.toNat = fmt.maxb ∧ r.man ≠ 0)
      ∧ (r.cls = .zero ↔ r.expb = 0 ∧ r.man = 0)
      ∧ (r.cls = .denormalized ↔ r.expb = 0 ∧ r.man ≠ 0)
      ∧ (r.cls = .normal ↔ 0 < r.expb.toNat ∧ r.expb.toNat < fmt.maxb)
      ∧ (r.hid = true ↔ r.cls = .normal) ∧ (r.hid = true ↔ r.spc = false)
      ∧ (r.spc = true ↔ r.expb = 0 ∨ r.expb.toNat = fmt.maxb)
      ∧ (r.spc = true ↔ r.cls ∈ [Cls.zero, .infinity, .nan, .denormalized])

/-- The pattern counts of R71, R72 and R73. -/
def Obligations.PatternCountsPerClass : Prop :=
  let count (fmt : Fmt) (c : Cls) : Nat :=
    ((Finset.range (2 ^ fmt.pw)).filter fun n => (decompose fmt (BitVec.ofNat fmt.pw n)).cls = c).card
  (count .fp32 .zero = 2 ∧ count .fp32 .infinity = 2 ∧ count .fp32 .nan = 2 ^ 24 - 2
      ∧ count .fp32 .denormalized = 2 ^ 24 - 2 ∧ count .fp32 .normal = 254 * 2 ^ 24)
    ∧ (count .fp16 .zero = 2 ∧ count .fp16 .infinity = 2 ∧ count .fp16 .nan = 2046
      ∧ count .fp16 .denormalized = 2046 ∧ count .fp16 .normal = 61440)
    ∧ (count .bf16 .zero = 2 ∧ count .bf16 .infinity = 2 ∧ count .bf16 .nan = 254
      ∧ count .bf16 .denormalized = 254 ∧ count .bf16 .normal = 65024)

/-- R65: a pattern with `0 < EXPB < MAXB` is Normal, has `HID = 1`, `MANV = 1 + FRAC`, `SPC = 0`, and denotes
`SGNV * (1 + MAN/2^M) * 2^EXPV`, which is neither zero nor infinite. -/
def Obligations.NormalValue : Prop :=
  ∀ (fmt : Fmt) (p : Pattern fmt),
    let r := decompose fmt p
    0 < r.expb.toNat → r.expb.toNat < fmt.maxb →
      r.cls = .normal ∧ r.hid = true ∧ r.spc = false ∧ r.manv fmt = 1 + r.frac fmt
        ∧ r.fv = .fin r.sgn (2 ^ fmt.mw + r.man.toNat) (r.expv.toInt - fmt.mw)
        ∧ r.fv.toRat = some ((r.sgnv : Rat) * r.manv fmt * (2 : Rat) ^ r.expv.toInt)
        ∧ r.fv.toRat ≠ some 0 ∧ r.fv.isInf = false ∧ r.fv.isZero = false

/-- R69: a pattern with `EXPB = 0` and `MAN ≠ 0` is Denormalized, has `HID = 0`, `SPC = 1`, `MANV = FRAC`, and denotes
`SGNV * FRAC * 2^(1-BIAS)`; the smallest positive values are `2^-149`, `2^-24` and `2^-133`. -/
def Obligations.DenormalizedValue : Prop :=
  (∀ (fmt : Fmt) (p : Pattern fmt),
      let r := decompose fmt p
      r.expb = 0 → r.man ≠ 0 →
        r.cls = .denormalized ∧ r.hid = false ∧ r.spc = true ∧ r.manv fmt = r.frac fmt
          ∧ r.fv = .fin r.sgn r.man.toNat (1 - (fmt.bias : Int) - fmt.mw)
          ∧ r.fv.toRat = some ((r.sgnv : Rat) * r.frac fmt * (2 : Rat) ^ (1 - (fmt.bias : Int))))
    ∧ (decompose .fp32 0x00000001#32).fv.toRat = some ((2 : Rat) ^ (-149 : Int))
    ∧ (decompose .fp16 0x0001#16).fv.toRat = some ((2 : Rat) ^ (-24 : Int))
    ∧ (decompose .bf16 0x0001#16).fv.toRat = some ((2 : Rat) ^ (-133 : Int))

/-- R66, R67 and R68: Infinity (exactly two patterns a format), NaN (any other all-ones exponent, of either sign, with
its sign and mantissa still reported) and Zero (signed), each with `HID = 0` and `SPC = 1`. -/
def Obligations.SpecialValues : Prop :=
  (∀ (fmt : Fmt) (p : Pattern fmt),
      let r := decompose fmt p
      (r.expb.toNat = fmt.maxb → r.man = 0 →
          r.cls = .infinity ∧ r.spc = true ∧ r.hid = false ∧ r.fv = .inf r.sgn)
        ∧ (r.expb.toNat = fmt.maxb → r.man ≠ 0 →
            r.cls = .nan ∧ r.spc = true ∧ r.hid = false ∧ r.fv = .nan
              ∧ r.sgn = p.getLsbD (fmt.pw - 1) ∧ r.man.toNat = p.toNat % 2 ^ fmt.mw)
        ∧ (r.expb = 0 → r.man = 0 →
            r.cls = .zero ∧ r.spc = true ∧ r.hid = false ∧ r.fv = .zero r.sgn ∧ r.manv fmt = 0))
    ∧ (∀ p : Pattern .fp32, (decompose .fp32 p).cls = .infinity ↔ p = 0x7F800000#32 ∨ p = 0xFF800000#32)
    ∧ (∀ p : Pattern .fp16, (decompose .fp16 p).cls = .infinity ↔ p = 0x7C00#16 ∨ p = 0xFC00#16)
    ∧ (∀ p : Pattern .bf16, (decompose .bf16 p).cls = .infinity ↔ p = 0x7F80#16 ∨ p = 0xFF80#16)
    ∧ ∀ (fmt : Fmt) (p q : Pattern fmt), (decompose fmt p).fv = .zero false → (decompose fmt q).fv = .zero true →
        (decompose fmt p).sgn ≠ (decompose fmt q).sgn ∧ (decompose fmt p).bits ≠ (decompose fmt q).bits
          ∧ (decompose fmt p).fv32 ≠ (decompose fmt q).fv32
          ∧ numeq (decompose fmt p).fv (decompose fmt q).fv = true

/-- R17: `FRAC` is the sum over the mantissa bits, the first worth `2^-1`, and is `MAN / 2^MW` in `[0, 1)`;
`MANV = HID + FRAC` is in `[0, 2)`; `SGNV` is `+1` or `-1` by `SGN`; `FV` is a `Val` of R7. -/
def Obligations.FractionIsTheBinarySum : Prop :=
  ∀ (fmt : Fmt) (p : Pattern fmt),
    let r := decompose fmt p
    r.frac fmt = ∑ i ∈ Finset.range fmt.mw, (if r.man.getLsbD (fmt.mw - 1 - i) then (2 : Rat) ^ (-(i + 1 : Int)) else 0)
      ∧ r.frac fmt = (r.man.toNat : Rat) / 2 ^ fmt.mw
      ∧ 0 ≤ r.frac fmt ∧ r.frac fmt < 1
      ∧ r.manv fmt = (if r.hid then 1 else 0) + r.frac fmt ∧ 0 ≤ r.manv fmt ∧ r.manv fmt < 2
      ∧ r.sgnv = (if r.sgn then -1 else 1)
      ∧ r.fv.wf = true

/-- R70: `FV32` is `EncodeFV32(FV)`: `NAN32` for NaN, and for every other value the ONE FP32 pattern that denotes it,
the sign of a zero included; and it is what the bit table of R70 says, format by format. -/
def Obligations.Fv32IsTheOnePatternOfTheValue : Prop :=
  ∀ (fmt : Fmt) (p : Pattern fmt),
    let r := decompose fmt p
    sameValue (v32 r.fv32) r.fv = true
      ∧ (r.cls = .nan → r.fv32 = 0x7F800001#32)
      ∧ (r.cls ≠ .nan → ∀ w : Word, sameValue (v32 w) r.fv = true → w = r.fv32)
      ∧ (r.cls ≠ .nan → fmt = .fp32 → r.fv32 = r.bits)
      ∧ (r.cls ≠ .nan → fmt = .bf16 → r.fv32 = r.bits.extractLsb' 0 16 ++ 0#16)
      ∧ (fmt = .fp16 → r.cls = .zero → r.fv32 = BitVec.ofBool r.sgn ++ 0x00#8 ++ 0#23)
      ∧ (fmt = .fp16 → r.cls = .infinity → r.fv32 = BitVec.ofBool r.sgn ++ 0xFF#8 ++ 0#23)
      ∧ (fmt = .fp16 → r.cls = .normal →
          r.fv32 = BitVec.ofBool r.sgn ++ BitVec.ofNat 8 (r.expb.toNat + 112) ++ r.man.extractLsb' 0 10 ++ 0#13)
      ∧ ∀ j : Nat, fmt = .fp16 → r.cls = .denormalized → 2 ^ j ≤ r.man.toNat → r.man.toNat < 2 ^ (j + 1) →
          r.fv32 = BitVec.ofBool r.sgn ++ BitVec.ofNat 8 (j + 103)
            ++ BitVec.ofNat 23 ((r.man.toNat - 2 ^ j) * 2 ^ (23 - j))

/-- R74 law 5: flipping the sign bit flips `SGN` and the sign of the value, keeps `EXPB`, `EXPV`, `MAN`, `HID`, `SPC` and
`CLS`; `FV32` changes in its sign bit alone, and not at all for a NaN. -/
def Obligations.SignSymmetry : Prop :=
  ∀ (fmt : Fmt) (p : Pattern fmt),
    let r := decompose fmt p
    let q := decompose fmt (p ^^^ BitVec.twoPow fmt.pw (fmt.pw - 1))
    q.sgn = !r.sgn ∧ q.fv = r.fv.negate ∧ q.expb = r.expb ∧ q.expv = r.expv ∧ q.man = r.man ∧ q.hid = r.hid
      ∧ q.spc = r.spc ∧ q.cls = r.cls
      ∧ q.bits = r.bits ^^^ BitVec.twoPow 32 (fmt.pw - 1)
      ∧ q.fv32 = (if r.cls = .nan then r.fv32 else r.fv32 ^^^ 0x80000000#32)

/-- R74 law 6: on the non-NaN patterns of one format with `SGN = 0`, a larger pattern denotes a larger value, with
`Inf(0)` above every finite value. -/
def Obligations.ValuesIncreaseWithPatterns : Prop :=
  ∀ (fmt : Fmt) (p q : Pattern fmt),
    (decompose fmt p).sgn = false → (decompose fmt q).sgn = false →
    (decompose fmt p).cls ≠ .nan → (decompose fmt q).cls ≠ .nan → p.toNat < q.toNat →
      valueBelow (decompose fmt p).fv (decompose fmt q).fv

/-- R74 law 8: the largest finite value and the smallest positive Normal of each format, each with its value, its class,
and that it is extreme: no finite value of the format exceeds the largest in magnitude, and no Normal of the format lies
below the smallest, `2^(1-BIAS)`, in magnitude. -/
def Obligations.ExtremeValues : Prop :=
  (decompose .fp32 0x7F7FFFFF#32).fv.toRat = some ((2 - 2 ^ (-23 : Int)) * 2 ^ (127 : Int))
    ∧ (decompose .fp16 0x7BFF#16).fv.toRat = some ((2 - 2 ^ (-10 : Int)) * 2 ^ (15 : Int))
    ∧ (decompose .fp16 0x7BFF#16).fv.toRat = some 65504
    ∧ (decompose .bf16 0x7F7F#16).fv.toRat = some ((2 - 2 ^ (-7 : Int)) * 2 ^ (127 : Int))
    ∧ (decompose .fp32 0x00800000#32).fv.toRat = some (2 ^ (-126 : Int))
    ∧ (decompose .fp16 0x0400#16).fv.toRat = some (2 ^ (-14 : Int))
    ∧ (decompose .bf16 0x0080#16).fv.toRat = some (2 ^ (-126 : Int))
    ∧ (decompose .fp32 0x00800000#32).cls = .normal ∧ (decompose .fp16 0x0400#16).cls = .normal
    ∧ (decompose .bf16 0x0080#16).cls = .normal
    ∧ (∀ (fmt : Fmt) (p : Pattern fmt) (x y : Rat), (decompose fmt p).fv.toRat = some x →
        (decompose fmt (BitVec.ofNat fmt.pw (fmt.maxb * 2 ^ fmt.mw - 1))).fv.toRat = some y → |x| ≤ y)
    ∧ ∀ (fmt : Fmt) (p : Pattern fmt) (x : Rat), (decompose fmt p).cls = .normal →
        (decompose fmt p).fv.toRat = some x → (2 : Rat) ^ (1 - (fmt.bias : Int)) ≤ |x|

/-! ### CVT -/

/-- R81: the four predicates on the source word, by its bits, and each holds exactly when `Decode(FP32, s)` gives the class
it names. -/
def Obligations.SourcePredicatesMatchTheClasses : Prop :=
  ∀ s : Word,
    (isNaN32 s = true ↔ (decompose .fp32 s).cls = .nan)
      ∧ (isInf32 s = true ↔ (decompose .fp32 s).cls = .infinity)
      ∧ (isZero32 s = true ↔ (decompose .fp32 s).cls = .zero)
      ∧ (isSub32 s = true ↔ (decompose .fp32 s).cls = .denormalized)
      ∧ (isNaN32 s = true ↔ s.extractLsb' 23 8 = 0xFF ∧ s.extractLsb' 0 23 ≠ 0)
      ∧ (isInf32 s = true ↔ s = 0x7F800000 ∨ s = 0xFF800000)
      ∧ (isZero32 s = true ↔ s = 0x00000000 ∨ s = 0x80000000)
      ∧ (isSub32 s = true ↔ s.extractLsb' 23 8 = 0x00 ∧ s.extractLsb' 0 23 ≠ 0)

/-- `CVT.FP32` completes on every operand (R86, R82): every NaN becomes `0x7F800001`, every other word passes unchanged;
the record is that of the encoded pattern; no flag is ever set. -/
def Obligations.CvtFp32Result : Prop :=
  ∀ (src : Word) (s : State), ∃ r : Fields,
    exec (.cvtFp32 src) s = .next { cmdPort := s.cmdPort, rspPort := s.rspPort ++ [.ok r] }
      ∧ r.bits = (if src.extractLsb' 23 8 = 0xFF#8 ∧ src.extractLsb' 0 23 ≠ 0#23 then 0x7F800001 else src)
      ∧ Describes .fp32 r.bits r ∧ r.fv32 = r.bits
      ∧ r.loss = false ∧ r.ovf = false ∧ r.unf = false

/-- `CVT.FP16` completes on every operand, with the pattern, class and flags of R87's table by the source's exponent and
mantissa fields, and the record of that pattern. -/
def Obligations.CvtFp16Result : Prop :=
  ∀ (src : Word) (s : State), ∃ r : Fields,
    exec (.cvtFp16 src) s = .next { cmdPort := s.cmdPort, rspPort := s.rspPort ++ [.ok r] }
      ∧ Describes .fp16 (r.bits.extractLsb' 0 16) r ∧ sameValue (v32 r.fv32) r.fv = true
      ∧ let e := (src.extractLsb' 23 8).toNat
        let m := src.extractLsb' 0 23
        let sg := src.getLsbD 31
        (r.bits, r.cls, r.loss, r.ovf, r.unf) =
          if e = 255 then
            if m ≠ 0 then (0x7E01, .nan, false, false, false)
            else (if sg then 0xFC00 else 0x7C00, .infinity, false, false, false)
          else if e = 0 then (if sg then 0x8000 else 0x0000, .zero, m != 0, false, m != 0)
          else if e ≤ 112 then (if sg then 0x8000 else 0x0000, .zero, true, false, true)
          else if e ≤ 142 then
            (0#16 ++ BitVec.ofBool sg ++ BitVec.ofNat 5 (e - 112) ++ src.extractLsb' 13 10, .normal,
              src.extractLsb' 0 13 != 0, false, false)
          else (if sg then 0xFC00 else 0x7C00, .infinity, true, true, false)

/-- `CVT.BF16` completes on every operand, with the pattern, class and flags of R88's table, and the record of that
pattern; `OVF` is never 1. -/
def Obligations.CvtBf16Result : Prop :=
  ∀ (src : Word) (s : State), ∃ r : Fields,
    exec (.cvtBf16 src) s = .next { cmdPort := s.cmdPort, rspPort := s.rspPort ++ [.ok r] }
      ∧ Describes .bf16 (r.bits.extractLsb' 0 16) r ∧ sameValue (v32 r.fv32) r.fv = true
      ∧ let e := (src.extractLsb' 23 8).toNat
        let m := src.extractLsb' 0 23
        let top := src.extractLsb' 16 16
        (r.bits, r.cls, r.loss, r.ovf, r.unf) =
          if e = 255 then
            if m ≠ 0 then (0x7FC0, .nan, false, false, false)
            else (if src.getLsbD 31 then 0xFF80 else 0x7F80, .infinity, false, false, false)
          else if e = 0 then
            if m = 0 then (0x0000, .zero, false, false, false)
            else if src.extractLsb' 16 7 = 0 then (if src.getLsbD 31 then 0x8000 else 0x0000, .zero, true, false, true)
            else (0#16 ++ top, .denormalized, src.extractLsb' 0 16 != 0, false, false)
          else (0#16 ++ top, .normal, src.extractLsb' 0 16 != 0, false, false)

/-- R106: the flags by values (R105) are the flags by the bit tables (`flagTable`), on all `2^32` source words for each
format; `UNF` implies `LOSS`; and FPV §8's examples land where R106 says. -/
def Obligations.FlagTablesEqualTheValueFlags : Prop :=
  (∀ (fmt : Fmt) (src : Word), lossFlags (v32 src) (decompose fmt (encodeTo fmt src)).fv = flagTable fmt src)
    ∧ (∀ (fmt : Fmt) (src : Word), (flagTable fmt src).unf = true → (flagTable fmt src).loss = true)
    ∧ flagTable .fp16 0x4788B800 = ⟨true, true, false⟩ ∧ flagTable .bf16 0x4788B800 = ⟨true, false, false⟩
    ∧ flagTable .fp16 0x00014E83 = ⟨true, false, true⟩ ∧ flagTable .bf16 0x00014E83 = ⟨true, false, false⟩
    ∧ (convert .bf16 0x00014E83).fv.isZero = false ∧ flagTable .fp16 0x477FE000 = ⟨false, false, false⟩
    ∧ flagTable .bf16 0x80000000 = ⟨false, false, false⟩

/-- R101, R102, R103 and R105: `LOSS` is 0 exactly when original and final value are both NaN, the same infinity, or the
same rational; `OVF` iff finite became infinite; `UNF` iff a value that is not zero became zero; never both, and each
implies `LOSS`. And no command turns a NaN into a number or a number into a NaN (R101's last remark). -/
def Obligations.FlagsSayWhatTheNarrowingLost : Prop :=
  (∀ o f : Val, o.wf = true → f.wf = true →
      ((lossFlags o f).loss = false ↔ (o = .nan ∧ f = .nan) ∨ (∃ b, o = .inf b ∧ f = .inf b)
          ∨ ∃ q, o.toRat = some q ∧ f.toRat = some q)
        ∧ ((lossFlags o f).ovf = true ↔ (∃ q, o.toRat = some q) ∧ ∃ b, f = .inf b)
        ∧ ((lossFlags o f).unf = true ↔ f.toRat = some 0 ∧ o.toRat ≠ some 0)
        ∧ ¬((lossFlags o f).ovf = true ∧ (lossFlags o f).unf = true)
        ∧ ((lossFlags o f).ovf = true ∨ (lossFlags o f).unf = true → (lossFlags o f).loss = true))
    ∧ ∀ (fmt : Fmt) (src : Word), v32 src = .nan ↔ (convert fmt src).fv = .nan

/-- R84: a NaN source always gives `0x7E01`; the `0x200` branch of `Rebias16` is never reached through `CVT.FP16`: the
only words with an all-ones exponent that reach it are the two infinities. -/
def Obligations.RebiasNaNBranchIsDead : Prop :=
  ∀ s : Word,
    (isNaN32 s = true → enc16 s = 0x7E01#16)
      ∧ (isNaN32 s = false → enc16 s = rebias16 s ∧ (srcExp s = 0xFF → s = 0x7F800000 ∨ s = 0xFF800000))
      ∧ enc16 s ≠ 0x7E00#16 ∧ enc16 s ≠ 0xFE00#16
      ∧ (isNaN32 s = true → rebias16 s = 0x7E00#16 ∨ rebias16 s = 0xFE00#16)

/-- R89: what the encoders never produce, and the exact range of `Enc16`. -/
def Obligations.EncodersNeverProduce : Prop :=
  (∀ s : Word, (decompose .fp32 (enc32 s)).cls = .nan → enc32 s = 0x7F800001)
    ∧ (∀ s : Word, (decompose .fp16 (enc16 s)).cls ≠ .denormalized
        ∧ ((decompose .fp16 (enc16 s)).cls = .nan → enc16 s = 0x7E01))
    ∧ (∀ p : BitVec 16, (∃ s : Word, enc16 s = p) ↔
        p ∈ [0x0000#16, 0x8000#16, 0x7C00#16, 0xFC00#16, 0x7E01#16] ∨ (decompose .fp16 p).cls = .normal)
    ∧ (∀ s : Word, isZero32 s = true → encBF s ≠ 0x8000)
    ∧ (∃ s : Word, isSub32 s = true ∧ srcSign s = true ∧ encBF s = 0x8000)
    ∧ (∀ s : Word, (decompose .bf16 (encBF s)).cls = .nan → encBF s = 0x7FC0)
    ∧ ∃ s : Word, (decompose .bf16 (encBF s)).cls = .denormalized

/-- R90: when a narrowing gives a finite result its magnitude is at most the source's; the sign is the source's except
for a NaN (sign 0) and for -0 into BF16; a magnitude grows only by FP16 overflow. -/
def Obligations.NarrowingTruncatesTowardZero : Prop :=
  ∀ (fmt : Fmt) (src : Word), fmt ≠ .fp32 →
    let r := convert fmt src
    (∀ y : Rat, r.fv.toRat = some y → ∃ x : Rat, (v32 src).toRat = some x ∧ |y| ≤ |x|)
      ∧ (isNaN32 src = false → ¬(fmt = .bf16 ∧ src = 0x80000000) → r.sgn = src.getLsbD 31)
      ∧ (isNaN32 src = true → r.sgn = false)
      ∧ (fmt = .bf16 → src = 0x80000000 → r.sgn = false)
      ∧ (∀ (x : Rat) (b : Bool), (v32 src).toRat = some x → r.fv = .inf b → fmt = .fp16 ∧ r.ovf = true)

/-- Truncation loses less than one unit in the last place of a Normal result (derived from R83 and R85). -/
def Obligations.TruncationLosesLessThanOneUlp : Prop :=
  ∀ (fmt : Fmt) (src : Word) (x y : Rat),
    let r := convert fmt src
    r.cls = .normal → (v32 src).toRat = some x → r.fv.toRat = some y →
      |x| - |y| < (2 : Rat) ^ (r.expv.toInt - fmt.mw) ∧ |y| ≤ |x|

/-- R91: what `CVT.fmt` responds with, `DEC.fmt` of its `BITS` responds with again, in every field but the three flags,
which are 0; and that `DEC` does not fault. -/
def Obligations.RedecodingIsAFixedPoint : Prop :=
  ∀ (fmt : Fmt) (src : Word) (s s' : State), ∃ r : Fields,
    exec (convertAlias fmt src) s = .next { cmdPort := s.cmdPort, rspPort := s.rspPort ++ [.ok r] }
      ∧ exec (decodeAlias fmt r.bits) s' =
          .next ⟨s'.cmdPort, s'.rspPort ++ [.ok { r with loss := false, ovf := false, unf := false }]⟩

/-- 95_test_vectors.md, program P4: converting the `FV32` of a response again gives the same `BITS` with `LOSS = 0`, with
one exception: a BF16 result -0, which becomes +0. -/
def Obligations.RenarrowingIsExact : Prop :=
  ∀ (fmt : Fmt) (src : Word),
    let r := convert fmt src
    let q := convert fmt r.fv32
    q.loss = false ∧ (¬(fmt = .bf16 ∧ r.bits = 0x8000) → q.bits = r.bits)
      ∧ (fmt = .bf16 → r.bits = 0x8000 → q.bits = 0x0000)

/-- R107: the host's booleans add what its own rounding lost: none is lost when the rounding kept the value; a finite
number rounded to an infinity is an overflow, a non-zero one rounded to zero an underflow, and each is a loss. -/
def Obligations.HostAddsItsOwnRoundingLoss : Prop :=
  ∀ (v : Val) (src : Word) (fl : LossFlags),
    (numeq v (v32 src) = true ∨ (v = .nan ∧ v32 src = .nan) → hostLossFlags v (v32 src) fl = fl)
      ∧ (numeq v (v32 src) = false → ¬(v = .nan ∧ v32 src = .nan) → (hostLossFlags v (v32 src) fl).loss = true)
      ∧ (v.isFinite = true → (v32 src).isInf = true →
          (hostLossFlags v (v32 src) fl).loss = true ∧ (hostLossFlags v (v32 src) fl).ovf = true)
      ∧ (v.isZero = false → (v32 src).isZero = true →
          (hostLossFlags v (v32 src) fl).loss = true ∧ (hostLossFlags v (v32 src) fl).unf = true)
      ∧ (fl.loss = true → (hostLossFlags v (v32 src) fl).loss = true)
      ∧ (fl.ovf = true → (hostLossFlags v (v32 src) fl).ovf = true)
      ∧ (fl.unf = true → (hostLossFlags v (v32 src) fl).unf = true)

/-! ### The response word -/

/-- The layout table of R47, for every record: each field at its bits, `ERR = 0`, the top thirteen bits zero. (R47's
closing remark on `{HID, MAN}` is not stated: log 17.) -/
def Obligations.ResponseWordLayout : Prop :=
  ∀ r : Fields,
    let w := pack (.ok r)
    w.extractLsb' 0 32 = r.bits ∧ w.extractLsb' 32 32 = r.fv32 ∧ w.extractLsb' 64 23 = r.man ∧ w.getLsbD 87 = r.hid
      ∧ w.extractLsb' 88 8 = r.expb ∧ w.extractLsb' 96 9 = r.expv ∧ w.getLsbD 105 = r.sgn ∧ w.getLsbD 106 = r.spc
      ∧ w.extractLsb' 107 3 = r.cls.code ∧ w.getLsbD 110 = r.loss ∧ w.getLsbD 111 = r.ovf ∧ w.getLsbD 112 = r.unf
      ∧ w.extractLsb' 113 2 = 0 ∧ w.extractLsb' 115 13 = 0

/-- R49, R50, R51: what a command word is answered with on the wire. `ERR` is 0 on `Ok`, 1 or 2 on a fault and never 3;
a fault word is its `ERR` with zero in every other bit; `CLS` is never 5 to 7 and agrees with `SPC`; bits 127 to 115 are
zero. -/
def Obligations.ReservedCodesNeverProduced : Prop :=
  ∀ w : CmdWord,
    let rsp := transact w
    rsp.extractLsb' 115 13 = 0 ∧ rsp.extractLsb' 113 2 ≠ 3 ∧ (rsp.extractLsb' 107 3).toNat ≤ 4
      ∧ (rsp.extractLsb' 113 2 = 0 → (rsp.getLsbD 106 = true ↔ rsp.extractLsb' 107 3 ≠ 0))
      ∧ (∀ r, responseTo w = .ok r →
          (rsp.extractLsb' 107 3 = 0 ↔ r.cls = .normal) ∧ (rsp.extractLsb' 107 3 = 1 ↔ r.cls = .zero)
            ∧ (rsp.extractLsb' 107 3 = 2 ↔ r.cls = .infinity) ∧ (rsp.extractLsb' 107 3 = 3 ↔ r.cls = .nan)
            ∧ (rsp.extractLsb' 107 3 = 4 ↔ r.cls = .denormalized))
      ∧ (rsp.extractLsb' 113 2 = 0 ↔ ∃ r, responseTo w = .ok r)
      ∧ (rsp.extractLsb' 113 2 = 1 ↔ responseTo w = .fault .illegalCommand)
      ∧ (rsp.extractLsb' 113 2 = 2 ↔ responseTo w = .fault .malformedOperand)
      ∧ (responseTo w = .fault .illegalCommand → rsp = 0x00020000000000000000000000000000)
      ∧ (responseTo w = .fault .malformedOperand → rsp = 0x00040000000000000000000000000000)

/-- The host reads back from the 128-bit word every field of the response, and from `FV32` the represented value itself
(R47 to R50, D10: nothing of the response but the spelling of `FV` is lost on the wire). -/
def Obligations.HostReadsBackTheResponse : Prop :=
  ∀ w : CmdWord,
    match responseTo w with
    | .fault code => unpack (transact w) = some (.fault code)
    | .ok r => ∃ v : Val, unpack (transact w) = some (.ok { r with fv := v }) ∧ sameValue v r.fv = true
end

