-- ==== Sys2Proof/Laws/Decompose.lean ====
section
/-! SUPPORT. The small lemmas of the profiles and of `decompose`: each field by `rfl`, and the three sliced fields as
numbers. -/

namespace Sys2Proof

/-- `PW = 1 + EW + MW` (R5). -/
theorem Fmt.pw_eq (f : Fmt) : f.pw = 1 + f.ew + f.mw := by cases f <;> rfl

@[simp] theorem Fmt.bias_fp32 : Fmt.fp32.bias = 127 := rfl
@[simp] theorem Fmt.bias_fp16 : Fmt.fp16.bias = 15 := rfl
@[simp] theorem Fmt.bias_bf16 : Fmt.bf16.bias = 127 := rfl
@[simp] theorem Fmt.maxb_fp32 : Fmt.fp32.maxb = 255 := rfl
@[simp] theorem Fmt.maxb_fp16 : Fmt.fp16.maxb = 31 := rfl
@[simp] theorem Fmt.maxb_bf16 : Fmt.bf16.maxb = 255 := rfl

namespace Machine

@[simp] theorem decompose_bits (fmt : Fmt) (p : Pattern fmt) : (decompose fmt p).bits = p.setWidth 32 := rfl
@[simp] theorem decompose_sgn (fmt : Fmt) (p : Pattern fmt) : (decompose fmt p).sgn = signOf fmt p := rfl
@[simp] theorem decompose_expb (fmt : Fmt) (p : Pattern fmt) : (decompose fmt p).expb = expbOf fmt p := rfl
@[simp] theorem decompose_man (fmt : Fmt) (p : Pattern fmt) : (decompose fmt p).man = manOf fmt p := rfl
@[simp] theorem decompose_expv (fmt : Fmt) (p : Pattern fmt) :
    (decompose fmt p).expv = BitVec.ofInt 9 (debias fmt (expbOf fmt p)) := rfl
@[simp] theorem decompose_cls (fmt : Fmt) (p : Pattern fmt) :
    (decompose fmt p).cls = classify fmt (expbOf fmt p) (manOf fmt p) := rfl
@[simp] theorem decompose_hid (fmt : Fmt) (p : Pattern fmt) :
    (decompose fmt p).hid = implicitBit (decompose fmt p).cls := rfl
@[simp] theorem decompose_spc (fmt : Fmt) (p : Pattern fmt) : (decompose fmt p).spc = isSpecial (decompose fmt p).cls := rfl
@[simp] theorem decompose_loss (fmt : Fmt) (p : Pattern fmt) : (decompose fmt p).loss = false := rfl
@[simp] theorem decompose_ovf (fmt : Fmt) (p : Pattern fmt) : (decompose fmt p).ovf = false := rfl
@[simp] theorem decompose_unf (fmt : Fmt) (p : Pattern fmt) : (decompose fmt p).unf = false := rfl

/-- The exponent field as a number (R63). -/
theorem expbOf_toNat (fmt : Fmt) (p : Pattern fmt) : (expbOf fmt p).toNat = p.toNat / 2 ^ fmt.mw % 2 ^ fmt.ew := by
  cases fmt <;> simp [expbOf, Fmt.mw, Fmt.ew, Nat.shiftRight_eq_div_pow]
  omega

/-- The mantissa field as a number (R64). -/
theorem manOf_toNat (fmt : Fmt) (p : Pattern fmt) : (manOf fmt p).toNat = p.toNat % 2 ^ fmt.mw := by
  cases fmt <;> simp [manOf, Fmt.mw] <;> omega

/-- The highest 1 of a number below `2^(top+1)` brackets it (R70, `j`). -/
theorem highestOne_bounds {m top : Nat} (h0 : m ≠ 0) (h : m < 2 ^ (top + 1)) :
    2 ^ highestOne m top ≤ m ∧ m < 2 ^ (highestOne m top + 1) := by
  induction top with
  | zero => simp [highestOne] at *; omega
  | succ k ih =>
    unfold highestOne
    split
    · rename_i hb
      exact ⟨Nat.ge_two_pow_of_testBit hb, h⟩
    · rename_i hb
      refine ih ?_
      by_contra hlt
      have hq : m / 2 ^ (k + 1) = 1 :=
        Nat.div_eq_of_lt_le (by omega) (by rw [show (1 + 1) * 2 ^ (k + 1) = 2 ^ (k + 1 + 1) by ring]; exact h)
      exact hb (by simp [Nat.testBit_eq_decide_div_mod_eq, hq])

end Machine

end Sys2Proof
end

