-- ==== Sys2Proof/Laws/State.lean ====
section
/-! SUPPORT. One lemma per field per update of the state, and of the record's flags, so that no later proof unfolds a
record update. -/

namespace Sys2Proof.Machine

@[simp] theorem respond_cmdPort (s : State) (r : Response) : (s.respond r).cmdPort = s.cmdPort := rfl
@[simp] theorem respond_rspPort (s : State) (r : Response) : (s.respond r).rspPort = s.rspPort ++ [r] := rfl
@[simp] theorem raiseFault_cmdPort (c : FaultCode) (s : State) : (raiseFault c s).cmdPort = s.cmdPort := rfl
@[simp] theorem raiseFault_rspPort (c : FaultCode) (s : State) :
    (raiseFault c s).rspPort = s.rspPort ++ [.fault c] := rfl
@[simp] theorem afterTake_cmdPort (s : State) (rest : List CmdWord) : (s.afterTake rest).cmdPort = rest := rfl
@[simp] theorem afterTake_rspPort (s : State) (rest : List CmdWord) : (s.afterTake rest).rspPort = s.rspPort := rfl
@[simp] theorem submit_cmdPort (s : State) (w : CmdWord) : (s.submit w).cmdPort = s.cmdPort ++ [w] := rfl
@[simp] theorem submit_rspPort (s : State) (w : CmdWord) : (s.submit w).rspPort = s.rspPort := rfl
@[simp] theorem withFetchWord_cmdPort (s : State) (nbits w : Nat) :
    (s.withFetchWord nbits w).cmdPort = tableCmdWord nbits w :: s.cmdPort := rfl
@[simp] theorem withFetchWord_rspPort (s : State) (nbits w : Nat) : (s.withFetchWord nbits w).rspPort = s.rspPort := rfl
@[simp] theorem reset_cmdPort : State.reset.cmdPort = [] := rfl
@[simp] theorem reset_rspPort : State.reset.rspPort = [] := rfl
@[simp] theorem assertReset_eq (s : State) : s.assertReset = State.reset := rfl

@[simp] theorem withFlags_loss (r : Fields) (l o u : Bool) : (r.withFlags l o u).loss = l := rfl
@[simp] theorem withFlags_ovf (r : Fields) (l o u : Bool) : (r.withFlags l o u).ovf = o := rfl
@[simp] theorem withFlags_unf (r : Fields) (l o u : Bool) : (r.withFlags l o u).unf = u := rfl
@[simp] theorem withFlags_bits (r : Fields) (l o u : Bool) : (r.withFlags l o u).bits = r.bits := rfl
@[simp] theorem withFlags_sgn (r : Fields) (l o u : Bool) : (r.withFlags l o u).sgn = r.sgn := rfl
@[simp] theorem withFlags_expb (r : Fields) (l o u : Bool) : (r.withFlags l o u).expb = r.expb := rfl
@[simp] theorem withFlags_expv (r : Fields) (l o u : Bool) : (r.withFlags l o u).expv = r.expv := rfl
@[simp] theorem withFlags_man (r : Fields) (l o u : Bool) : (r.withFlags l o u).man = r.man := rfl
@[simp] theorem withFlags_hid (r : Fields) (l o u : Bool) : (r.withFlags l o u).hid = r.hid := rfl
@[simp] theorem withFlags_spc (r : Fields) (l o u : Bool) : (r.withFlags l o u).spc = r.spc := rfl
@[simp] theorem withFlags_cls (r : Fields) (l o u : Bool) : (r.withFlags l o u).cls = r.cls := rfl
@[simp] theorem withFlags_fv32 (r : Fields) (l o u : Bool) : (r.withFlags l o u).fv32 = r.fv32 := rfl
@[simp] theorem withFlags_fv (r : Fields) (l o u : Bool) : (r.withFlags l o u).fv = r.fv := rfl

end Sys2Proof.Machine
end

