-- ==== Sys2Proof/Laws/Convert.lean ====
section
/-! SUPPORT. The small lemmas of `convert` (41_convert.md R80): the encoded pattern's record with the three flags set. -/

namespace Sys2Proof.Machine

@[simp] theorem encodeTo_fp32 (s : Word) : encodeTo .fp32 s = enc32 s := rfl
@[simp] theorem encodeTo_fp16 (s : Word) : encodeTo .fp16 s = enc16 s := rfl
@[simp] theorem encodeTo_bf16 (s : Word) : encodeTo .bf16 s = encBF s := rfl

/-- Everything a conversion is. -/
theorem convert_eq (fmt : Fmt) (src : Word) :
    convert fmt src =
      (decompose fmt (encodeTo fmt src)).withFlags
        (lossFlag (v32 src) (decompose fmt (encodeTo fmt src)).fv)
        (ovfFlag (v32 src) (decompose fmt (encodeTo fmt src)).fv)
        (unfFlag (v32 src) (decompose fmt (encodeTo fmt src)).fv) := rfl

@[simp] theorem convert_bits (fmt : Fmt) (src : Word) : (convert fmt src).bits = (encodeTo fmt src).setWidth 32 := rfl
@[simp] theorem convert_sgn (fmt : Fmt) (src : Word) : (convert fmt src).sgn = signOf fmt (encodeTo fmt src) := rfl
@[simp] theorem convert_cls (fmt : Fmt) (src : Word) :
    (convert fmt src).cls = (decompose fmt (encodeTo fmt src)).cls := rfl
@[simp] theorem convert_fv (fmt : Fmt) (src : Word) : (convert fmt src).fv = (decompose fmt (encodeTo fmt src)).fv := rfl
@[simp] theorem convert_fv32 (fmt : Fmt) (src : Word) :
    (convert fmt src).fv32 = (decompose fmt (encodeTo fmt src)).fv32 := rfl
@[simp] theorem convert_loss (fmt : Fmt) (src : Word) :
    (convert fmt src).loss = lossFlag (v32 src) (decompose fmt (encodeTo fmt src)).fv := rfl
@[simp] theorem convert_ovf (fmt : Fmt) (src : Word) :
    (convert fmt src).ovf = ovfFlag (v32 src) (decompose fmt (encodeTo fmt src)).fv := rfl
@[simp] theorem convert_unf (fmt : Fmt) (src : Word) :
    (convert fmt src).unf = unfFlag (v32 src) (decompose fmt (encodeTo fmt src)).fv := rfl

end Sys2Proof.Machine
end

