-- ==== Sys2Proof/Laws/Exec.lean ====
section
/-! SUPPORT. What each shared operation can do, said once: performing a command appends one response, the one
`responseOf` names, and does nothing else. -/

namespace Sys2Proof.Machine

/-- The FP32 operand check is vacuous (R60). -/
theorem operand_fp32 (src : Word) : operand .fp32 src = .ok src := by
  simp [operand]

/-- A 16-bit operand with a zero upper half is its lower half (R60). -/
theorem operand_fp16_ok {src : Word} (h : src.extractLsb' 16 16 = 0#16) : operand .fp16 src = .ok (src.setWidth 16) := by
  simp [operand, h]

theorem operand_bf16_ok {src : Word} (h : src.extractLsb' 16 16 = 0#16) : operand .bf16 src = .ok (src.setWidth 16) := by
  simp [operand, h]

/-- A 16-bit operand with anything in its upper half is malformed (R60). -/
theorem operand_fp16_error {src : Word} (h : src.extractLsb' 16 16 ≠ 0#16) :
    operand .fp16 src = .error .malformedOperand := by
  simp [operand, h]

theorem operand_bf16_error {src : Word} (h : src.extractLsb' 16 16 ≠ 0#16) :
    operand .bf16 src = .error .malformedOperand := by
  simp [operand, h]

/-- A `DEC` only responds. -/
theorem execDec_eq (fmt : Fmt) (src : Word) (s : State) : execDec fmt src s = .next (s.respond (decResponse fmt src)) := by
  unfold execDec decResponse
  cases operand fmt src <;> rfl

/-- A `CVT` only responds. -/
theorem execCvt_eq (fmt : Fmt) (src : Word) (s : State) :
    execCvt fmt src s = .next (s.respond (.ok (convert fmt src))) := rfl

/-- Every command only responds: everything `exec` can do. -/
theorem exec_eq_respond (i : Instr) (s : State) : exec i s = .next (s.respond (responseOf i)) := by
  cases i
  case decFp32 src => exact execDec_eq .fp32 src s
  case decFp16 src => exact execDec_eq .fp16 src s
  case decBf16 src => exact execDec_eq .bf16 src s
  case cvtFp32 src => exact execCvt_eq .fp32 src s
  case cvtFp16 src => exact execCvt_eq .fp16 src s
  case cvtBf16 src => exact execCvt_eq .bf16 src s

/-- Performing a word only responds, with `responseTo` of the word. -/
theorem performWord_eq (w : CmdWord) (s : State) : performWord w s = .next (s.respond (responseTo w)) := by
  unfold performWord responseTo
  cases decodeCommand w with
  | ok i => exact exec_eq_respond i s
  | error c => rfl

/-- Everything a step can do when a command stands at the port. -/
theorem step_of_cons {s : State} {w : CmdWord} {rest : List CmdWord} (h : s.cmdPort = w :: rest) :
    step s = .next ((s.afterTake rest).respond (responseTo w)) := by
  simp only [step, h, performWord_eq]

/-- Everything a step can do when no command stands at the port. -/
theorem step_of_nil {s : State} (h : s.cmdPort = []) : step s = .next s := by
  simp only [step, h]

end Sys2Proof.Machine
end

