-- ==== Sys2Proof/Laws/PerInstr.lean ====
section
/-! SUPPORT. Statements made per instruction. `RowMatch`: the encoding of a command matches its own row of the opcode map
(30_encoding.md R44) and carries the operand whole in `CMD[31:0]` (R45). -/

namespace Sys2Proof.Laws.RowMatch

/-- The encoding matches its row under the common mask, and its `SRC` is the operand. -/
def Statement (i : Instr) : Prop := encode i &&& i.row.maskWord = i.row.matchWord ∧ cmdSrc (encode i) = i.src

theorem append_and_mask (c : BitVec 8) (s : Word) : (c ++ s : BitVec 40) &&& 0xFF00000000#40 = c ++ 0#32 := by
  rw [show (0xFF00000000#40) = (0xFF#8 ++ 0#32 : BitVec 40) by decide, BitVec.and_append]
  congr 1
  · exact BitVec.and_allOnes
  · simp

theorem cmdSrc_append (c : BitVec 8) (s : Word) : cmdSrc (c ++ s : BitVec 40) = s := by
  unfold cmdSrc
  ext i hi
  rw [BitVec.getElem_extractLsb', Nat.zero_add]
  exact (BitVec.getLsbD_append (x := c) (y := s) (i := i)).trans (by simp [hi])

theorem decFp32 (src : Word) : Statement (.decFp32 src) := ⟨append_and_mask 0x10 src, cmdSrc_append 0x10 src⟩
theorem decFp16 (src : Word) : Statement (.decFp16 src) := ⟨append_and_mask 0x11 src, cmdSrc_append 0x11 src⟩
theorem decBf16 (src : Word) : Statement (.decBf16 src) := ⟨append_and_mask 0x12 src, cmdSrc_append 0x12 src⟩
theorem cvtFp32 (src : Word) : Statement (.cvtFp32 src) := ⟨append_and_mask 0x20 src, cmdSrc_append 0x20 src⟩
theorem cvtFp16 (src : Word) : Statement (.cvtFp16 src) := ⟨append_and_mask 0x21 src, cmdSrc_append 0x21 src⟩
theorem cvtBf16 (src : Word) : Statement (.cvtBf16 src) := ⟨append_and_mask 0x22 src, cmdSrc_append 0x22 src⟩

end Sys2Proof.Laws.RowMatch
end

