-- ==== Sys2Proof/Laws/Run.lean ====
section
/-! SUPPORT. A run of several steps, one lemma per shape of the command port: what `Host.Core.run` of this machine does
next. -/

namespace Sys2Proof.Machine

/-- A run of no steps ends where it begins. -/
@[simp] theorem run_zero (s : State) : core.run 0 s = .next s := rfl

/-- A run that finds a command performs it and goes on. -/
theorem run_succ_cons (k : Nat) (w : CmdWord) (rest : List CmdWord) (rs : List Response) :
    core.run (k + 1) (⟨w :: rest, rs⟩ : State) = core.run k (⟨rest, rs ++ [responseTo w]⟩ : State) := by
  have h : core.step (⟨w :: rest, rs⟩ : State) = .next (⟨rest, rs ++ [responseTo w]⟩ : State) :=
    step_of_cons (s := ⟨w :: rest, rs⟩) rfl
  simp only [Host.Core.run, h]

/-- A run that finds no command stays where it is. -/
theorem run_succ_nil (k : Nat) (rs : List Response) :
    core.run (k + 1) (⟨[], rs⟩ : State) = core.run k (⟨[], rs⟩ : State) := rfl

end Sys2Proof.Machine
end

