-- ==== Sys2Proof/Tests/Slice0.lean ====
section
/-! SUPPORT. Small tests. Expected words come from spec/95_test_vectors.md (the vector's id is named), from the tables of
30_encoding.md and 10_state.md, or are written out by hand from a rule. The `witness_` theorems show that the hypotheses
of a statement can be met, at a boundary where the statement has one. -/

namespace Sys2Proof.Tests

open Sys2Proof.Machine

/-- The response words on the port after an outcome. -/
def wordsAfter (o : Host.Outcome State Fault Refusal) : List RspWord :=
  match o with
  | .next t => t.rspPort.map pack
  | .fault _ => []
  | .refused _ => []

/-- The response word of one command presented right after reset. -/
def answer (w : Nat) : List RspWord := wordsAfter (step (State.reset.withFetchWord 40 w))

/-! ### WellFormed: what the check refuses -/

theorem test_wellFormed_refuses_decFp16_upper_half : (Instr.decFp16 0x00010000).wellFormed = false := by decide
theorem test_wellFormed_refuses_decBf16_upper_half : (Instr.decBf16 0x80000000).wellFormed = false := by decide
theorem test_wellFormed_accepts_low_half :
    (Instr.decFp16 0x0000FFFF).wellFormed = true ∧ (Instr.decBf16 0x0000FFFF).wellFormed = true := by decide
theorem test_wellFormed_accepts_wide_operands :
    (Instr.decFp32 0xFFFFFFFF).wellFormed = true ∧ (Instr.cvtFp16 0xFFFFFFFF).wellFormed = true := by decide

/-! ### Decoding: words written out from R40 to R44 -/

/-- `OP = 0001`, `RSV = 00`, `FMT = 00`, then the operand. -/
theorem test_decode_decFp32 :
    decodeCommand 0b0001000010111101110011001100110011001101#40 = .ok (.decFp32 0xBDCCCCCD) := by decide
theorem test_decode_decFp16 :
    decodeCommand 0b0001000100000000000000000000001111111111#40 = .ok (.decFp16 0x000003FF) := by decide
theorem test_decode_decBf16 :
    decodeCommand 0b0001001000000000000000001011110111001100#40 = .ok (.decBf16 0x0000BDCC) := by decide
theorem test_decode_cvtFp32 :
    decodeCommand 0b0010000011111111110000010010001101000101#40 = .ok (.cvtFp32 0xFFC12345) := by decide
theorem test_decode_cvtFp16 :
    decodeCommand 0b0010000101000111100010001011100000000000#40 = .ok (.cvtFp16 0x4788B800) := by decide
theorem test_decode_cvtBf16 :
    decodeCommand 0b0010001010000000000000000000000000000001#40 = .ok (.cvtBf16 0x80000001) := by decide

/-- VI1 to VI11, the rejected words of 95_test_vectors.md section 4. -/
theorem test_decode_rejects :
    [0x0000000000, 0x003F800000, 0x1300000000, 0x2300000000, 0x1400000000, 0x2900000000, 0x3000000000, 0xF200000000,
      0xFFFFFFFFFF, 0x1312348000, 0x0100008000].all (fun w => decide (decodeTableWord 40 w = none)) = true := by decide

theorem test_encode_cvtFp16 : encode (.cvtFp16 0x4788B800) = 0x214788B800 := by decide

/-! ### One step per command -/

/-- VD7 -/
theorem test_decFp32_minus_tenth : answer 0x10BDCCCCCD = [0x000003FC7BCCCCCDBDCCCCCDBDCCCCCD] := by decide
/-- VD14: `DEC` echoes a NaN. -/
theorem test_decFp32_nan_echo : answer 0x10FFC12345 = [0x00001E80FF4123457F800001FFC12345] := by decide
/-- VE6: the largest FP16 subnormal. -/
theorem test_decFp16_subnormal : answer 0x11000003FF = [0x000025F1000003FF387FC000000003FF] := by decide
/-- VF2 -/
theorem test_decFp16_malformed : answer 0x1112348000 = [0x00040000000000000000000000000000] := by decide
/-- VG5: `FV32` is an FP32 subnormal. -/
theorem test_decBf16_subnormal : answer 0x120000807F = [0x000027810000007F807F00000000807F] := by decide
/-- VF6 -/
theorem test_decBf16_malformed : answer 0x123F800000 = [0x00040000000000000000000000000000] := by decide
/-- VC11: every NaN becomes `0x7F800001`. -/
theorem test_cvtFp32_canonical_nan : answer 0x20FFC12345 = [0x00001C80FF0000017F8000017F800001] := by decide
/-- VC3: -0 keeps its sign. -/
theorem test_cvtFp32_minus_zero : answer 0x2080000000 = [0x00000F81000000008000000080000000] := by decide
/-- VH13: 70000 overflows. -/
theorem test_cvtFp16_overflow : answer 0x214788B800 = [0x0000D4101F0000007F80000000007C00] := by decide
/-- VH20 -/
theorem test_cvtFp16_minus_tenth : answer 0x21BDCCCCCD = [0x000043FC0B800266BDCCC0000000AE66] := by decide
/-- VB2: an exactly zero source loses its sign. -/
theorem test_cvtBf16_minus_zero : answer 0x2280000000 = [0x00000D81000000000000000000000000] := by decide
/-- VB3: a negative subnormal truncated to zero keeps it. -/
theorem test_cvtBf16_negative_subnormal : answer 0x2280000001 = [0x00014F81000000008000000000008000] := by decide

/-- VI10: decoding comes before the operand check (R115). -/
theorem test_illegal_before_malformed : answer 0x1312348000 = [0x00020000000000000000000000000000] := by decide

/-- R130: with no command the block is idle. -/
theorem test_idle : step State.reset = .next State.reset := rfl

/-! ### Constants and host side -/

/-- The table of R10, with the formulas of R5 and R11. -/
theorem test_profile_constants :
    [Fmt.fp32, .fp16, .bf16].map (fun f => (f.ew, f.mw, f.pw, f.bias, f.maxb, f.code))
      = [(8, 23, 32, 127, 255, 0), (5, 10, 16, 15, 31, 1), (8, 7, 16, 127, 255, 2)] := by decide

/-- The assembled patterns of R13. -/
theorem test_canonical_patterns :
    nan32 = 0x7F800001 ∧ nan16 = 0x7E01 ∧ nanBF = 0x7FC0 ∧ zeroBF = 0x0000 ∧ infBF false = 0x7F80
      ∧ infBF true = 0xFF80 := by decide

/-- The line and the word of R52. -/
theorem test_assembler_line :
    printLine (.cvtFp16 0x4788B800)
        = ['C', 'V', 'T', '.', 'F', 'P', '1', '6', ' ', '0', 'x', '4', '7', '8', '8', 'B', '8', '0', '0']
      ∧ printWord (encode (.cvtFp16 0x4788B800)) = ['0', 'x', '2', '1', '4', '7', '8', '8', 'B', '8', '0', '0'] := by
  decide

/-- U10: words no response of the block has. -/
theorem test_unpack_refuses :
    unpack 0x00060000000000000000000000000000 = none ∧ unpack 0x80000000000000000000000000000000 = none
      ∧ unpack 0x00002800000000000000000000000000 = none := by decide

/-- R107: 2^200, an infinity once rounded, is an overflow and a loss though the block's flags are 0. -/
theorem test_host_overflow :
    hostLossFlags (.fin false 1 200) (v32 0x7F800000) ⟨false, false, false⟩ = ⟨true, true, false⟩ := by decide

/-- The host's operations (R133, R131). -/
theorem test_host_ports :
    ((State.reset.submit 1).submit 2).cmdPort = [1, 2]
      ∧ (State.mk [] [.fault .illegalCommand, .fault .malformedOperand]).takeResponse
          = some (.fault .illegalCommand, ⟨[], [.fault .malformedOperand]⟩)
      ∧ (State.mk [1] [.fault .illegalCommand]).assertReset = State.reset := by decide

/-! ### Witnesses for the hypotheses of the statements -/

theorem witness_EncodeOfDecodeIsTheWord : decodeCommand 0x2280000001 = .ok (.cvtBf16 0x80000001) := by decide

theorem witness_OpcodeMapSelectsTheCommand :
    (0x214788B800 : CmdWord) &&& (Instr.cvtFp16 0).row.maskWord = (Instr.cvtFp16 0).row.matchWord := by decide

theorem witness_StepRunsTheDecodedCommand :
    (State.mk [0x10BDCCCCCD, 5] []).cmdPort = 0x10BDCCCCCD :: [5]
      ∧ decodeCommand 0x10BDCCCCCD = .ok (.decFp32 0xBDCCCCCD)
      ∧ decodeTableWord 40 0x10BDCCCCCD = some (.decFp32 0xBDCCCCCD) := by decide

/-- Each way to be reserved, alone, and a word with none. -/
theorem witness_ReservedWordRespondsIllegalCommand :
    (State.mk [0x3000000000] []).cmdPort = 0x3000000000 :: []
      ∧ (cmdOp 0x3000000000 ≠ 1 ∧ cmdOp 0x3000000000 ≠ 2) ∧ cmdRsv 0x2900000000 ≠ 0 ∧ cmdFmt 0x1300000000 = 3
      ∧ cmdOp 0x2200000000 = 2 ∧ cmdRsv 0x2200000000 = 0 ∧ cmdFmt 0x2200000000 ≠ 3 := by decide

theorem witness_OneResponsePerCommand :
    (State.mk [7, 8] []).cmdPort = 7 :: [8] ∧ (State.mk [] [.fault .illegalCommand]).cmdPort = []
      ∧ ∃ t, step (State.mk [] [.fault .illegalCommand]) = .next t :=
  ⟨rfl, rfl, _, rfl⟩

theorem witness_ResponseIsAFunctionOfTheCommandWord : (State.mk [7, 8] []).cmdPort = 7 :: [8] := rfl

theorem witness_FaultLeavesNoTrace :
    responseTo 0x1112348000 = .fault .malformedOperand ∧ responseTo 0x0000000000 = .fault .illegalCommand := by decide

theorem witness_CommandsAreIndependent : [(1 : CmdWord), 2].Perm [2, 1] := List.Perm.swap 2 1 []

theorem witness_StepKeepsThePortLawful :
    lawfulPort ⟨[0x1112348000], [responseTo 0x21BDCCCCCD, responseTo 0x00, responseTo 0x22807FFFFF]⟩ = true := by decide

theorem witness_DutifulHostSeesNoFault :
    goodRun ⟨[0x110000FFFF, 0x22FFFFFFFF], [responseTo 0x21BDCCCCCD]⟩ = true ∧ dutiful 0x1100010000 = false := by decide

/-- The two sides of the operand check. -/
theorem witness_OperandIsTheRightAlignedPattern :
    (0x0000FFFF#32).toNat < 2 ^ 16 ∧ 2 ^ 16 ≤ (0x00010000#32).toNat := by decide

theorem witness_DecFp16Result : (0x0000FFFF#32).extractLsb' 16 16 = 0#16 := by decide
theorem witness_DecBf16Result : (0x0000FFFF#32).extractLsb' 16 16 = 0#16 := by decide

theorem witness_MalformedOperandExactlyOnAWidePattern :
    (0x00010000#32).extractLsb' 16 16 ≠ 0#16
      ∧ ∃ t, exec (.decBf16 0x00010000) State.reset = .next t
          ∧ t.rspPort = State.reset.rspPort ++ [.fault .malformedOperand] :=
  ⟨by decide, _, rfl, rfl⟩

theorem witness_NumericPathsNeverFault : (0x0000FFFF#32).extractLsb' 16 16 = 0#16 := by decide

/-- A zero and an all-ones exponent field. -/
theorem witness_DebiasedExponentIsExact :
    (decompose .fp16 0x83FF#16).expb = 0 ∧ (decompose .fp16 0x7C00#16).expb.toNat = Fmt.fp16.maxb := by decide

/-- The least and the greatest Normal exponent of each format. -/
theorem witness_NormalValue :
    (decompose .fp32 0x00800000#32).expb = 1 ∧ (decompose .fp32 0x7F7FFFFF#32).expb = 254
      ∧ (decompose .fp16 0x0400#16).expb = 1 ∧ (decompose .fp16 0x7BFF#16).expb = 30
      ∧ (decompose .bf16 0x0080#16).expb = 1 ∧ (decompose .bf16 0x7F7F#16).expb = 254 := by decide

theorem witness_DenormalizedValue : (decompose .bf16 0x807F#16).expb = 0 ∧ (decompose .bf16 0x807F#16).man ≠ 0 := by
  decide

/-- One pattern for each of the three clauses, and the two zeros. -/
theorem witness_SpecialValues :
    ((decompose .fp16 0xFC00#16).expb.toNat = Fmt.fp16.maxb ∧ (decompose .fp16 0xFC00#16).man = 0)
      ∧ ((decompose .fp16 0x7C01#16).expb.toNat = Fmt.fp16.maxb ∧ (decompose .fp16 0x7C01#16).man ≠ 0)
      ∧ ((decompose .fp16 0x8000#16).expb = 0 ∧ (decompose .fp16 0x8000#16).man = 0)
      ∧ (decompose .fp16 0x0000#16).fv = .zero false ∧ (decompose .fp16 0x8000#16).fv = .zero true := by decide

/-- Each row of R70's table, the last at both ends of `j`. -/
theorem witness_Fv32IsTheOnePatternOfTheValue :
    (decompose .fp32 0x7FC00000#32).cls = .nan ∧ sameValue (v32 0x33800000) (decompose .fp16 0x0001#16).fv = true
      ∧ (decompose .fp32 0xFF800000#32).cls ≠ .nan ∧ (decompose .bf16 0x0001#16).cls ≠ .nan
      ∧ (decompose .fp16 0x8000#16).cls = .zero ∧ (decompose .fp16 0x7C00#16).cls = .infinity
      ∧ (decompose .fp16 0x7BFF#16).cls = .normal
      ∧ (decompose .fp16 0x0001#16).cls = .denormalized ∧ 2 ^ 0 ≤ (decompose .fp16 0x0001#16).man.toNat
      ∧ (decompose .fp16 0x0001#16).man.toNat < 2 ^ (0 + 1)
      ∧ (decompose .fp16 0x03FF#16).cls = .denormalized ∧ 2 ^ 9 ≤ (decompose .fp16 0x03FF#16).man.toNat
      ∧ (decompose .fp16 0x03FF#16).man.toNat < 2 ^ (9 + 1) := by decide

/-- The step from the largest finite value to Infinity. -/
theorem witness_ValuesIncreaseWithPatterns :
    (decompose .fp16 0x7BFF#16).sgn = false ∧ (decompose .fp16 0x7C00#16).sgn = false
      ∧ (decompose .fp16 0x7BFF#16).cls ≠ .nan ∧ (decompose .fp16 0x7C00#16).cls ≠ .nan
      ∧ (0x7BFF#16).toNat < (0x7C00#16).toNat := by decide

/-- A finite pattern and the largest one; and the smallest Normal, negative, where the lower bound is met. -/
theorem witness_ExtremeValues :
    (∃ x, (decompose .fp16 0x8000#16).fv.toRat = some x)
      ∧ (∃ y, (decompose .fp16 (BitVec.ofNat 16 (Fmt.fp16.maxb * 2 ^ Fmt.fp16.mw - 1))).fv.toRat = some y)
      ∧ (decompose .fp16 0x8400#16).cls = .normal ∧ ∃ x, (decompose .fp16 0x8400#16).fv.toRat = some x :=
  ⟨⟨_, rfl⟩, ⟨_, rfl⟩, by decide, ⟨_, rfl⟩⟩

/-- R87's table at the ends of its rows: `e` = 0, 0, 1, 112, 113, 142, 143, 254, 255, 255 (VH1, VH4, VH27, VH8, VH9,
VH12, VH14, VH24, VH15, VH19). -/
theorem witness_CvtFp16Result :
    [0x00000000, 0x00000001, 0x00800000, 0x387FFFFF, 0x38800000, 0x477FFFFF, 0x47800000, 0x7F7FFFFF, 0x7F800000,
        0x7F800001].map (fun w => (convert .fp16 w).bits)
      = [0x0000, 0x0000, 0x0000, 0x0000, 0x0400, 0x7BFF, 0x7C00, 0x7C00, 0x7C00, 0x7E01] := by decide

/-- R88's table at the ends of its rows (VB1, VB2, VB4, VB5, VB7, VB8, VB13, VB14, VB18). -/
theorem witness_CvtBf16Result :
    [0x00000000, 0x80000000, 0x00000001, 0x0000FFFF, 0x00010000, 0x807FFFFF, 0x7F7FFFFF, 0x7F800000,
        0x7F800001].map (fun w => (convert .bf16 w).bits)
      = [0x0000, 0x0000, 0x0000, 0x0000, 0x0001, 0x807F, 0x7F7F, 0x7F80, 0x7FC0] := by decide

theorem witness_FlagTablesEqualTheValueFlags : (flagTable .bf16 0x80000001).unf = true := by decide

theorem witness_FlagsSayWhatTheNarrowingLost : (Val.fin true 3 (-149)).wf = true ∧ (Val.zero true).wf = true := by decide

/-- A NaN, an infinity and a finite word. -/
theorem witness_RebiasNaNBranchIsDead :
    isNaN32 0xFFC12345 = true ∧ isNaN32 0xFF800000 = false ∧ srcExp 0xFF800000 = 0xFF ∧ isNaN32 0x3F800000 = false := by
  decide

theorem witness_EncodersNeverProduce :
    (decompose .fp32 (enc32 0xFFFFFFFF)).cls = .nan ∧ (decompose .fp16 (enc16 0xFFFFFFFF)).cls = .nan
      ∧ isZero32 0x80000000 = true ∧ (decompose .bf16 (encBF 0xFFFFFFFF)).cls = .nan := by decide

/-- A finite result; the sign clauses for an ordinary word, a NaN and -0; and an overflow. -/
theorem witness_NarrowingTruncatesTowardZero :
    Fmt.bf16 ≠ .fp32 ∧ (∃ y, (convert .bf16 0x3F80FFFF).fv.toRat = some y)
      ∧ isNaN32 0x80000001 = false ∧ isNaN32 0xFFFFFFFF = true
      ∧ (∃ x, (v32 0x47800000).toRat = some x) ∧ (convert .fp16 0x47800000).fv = .inf false :=
  ⟨by decide, ⟨_, rfl⟩, by decide, by decide, ⟨_, rfl⟩, by decide⟩

theorem witness_TruncationLosesLessThanOneUlp :
    (convert .fp16 0x477FFFFF).cls = .normal ∧ (∃ x, (v32 0x477FFFFF).toRat = some x)
      ∧ ∃ y, (convert .fp16 0x477FFFFF).fv.toRat = some y :=
  ⟨by decide, ⟨_, rfl⟩, ⟨_, rfl⟩⟩

/-- Both sides of the one exception. -/
theorem witness_RenarrowingIsExact :
    (convert .bf16 0x80000001).bits = 0x8000 ∧ ¬(Fmt.bf16 = .bf16 ∧ (convert .bf16 0x807FFFFF).bits = 0x8000) := by decide

/-- Each clause: an exact rounding, an inexact one, an overflow, an underflow, and flags already set. -/
theorem witness_HostAddsItsOwnRoundingLoss :
    numeq (.fin false 1 0) (v32 0x3F800000) = true
      ∧ (numeq (.fin false 1 (-60)) (v32 0x3F800000) = false ∧ ¬(Val.fin false 1 (-60) = .nan ∧ v32 0x3F800000 = .nan))
      ∧ ((Val.fin false 1 200).isFinite = true ∧ (v32 0x7F800000).isInf = true)
      ∧ ((Val.fin false 1 (-200)).isZero = false ∧ (v32 0x00000000).isZero = true)
      ∧ (⟨true, true, false⟩ : LossFlags).ovf = true ∧ (⟨true, false, true⟩ : LossFlags).unf = true := by decide

theorem witness_ReservedCodesNeverProduced :
    responseTo 0x1112348000 = .fault .malformedOperand ∧ responseTo 0x0000000000 = .fault .illegalCommand
      ∧ (∃ r, responseTo 0x10BDCCCCCD = .ok r) :=
  ⟨by decide, by decide, _, rfl⟩

end Sys2Proof.Tests
end

/-! PROOFS. The port-level obligations: what a step does to the two ports (10_state.md R14, R24, R25), all read off
`step_of_cons`, `step_of_nil` and `exec_eq_respond`. -/

namespace Sys2Proof.Machine

/-- A step on a word that decodes is the meaning of the decoded command, once the word has left the port (R14, R53). -/
theorem step_of_cons_of_decode {s : State} {w : CmdWord} {rest : List CmdWord} {i : Instr}
    (h : s.cmdPort = w :: rest) (hd : decodeCommand w = .ok i) : step s = exec i (s.afterTake rest) := by
  simp only [step, h, performWord, hd]

/-- A table word decodes only as the 40-bit command word it stands for does (log 6). -/
theorem decodeCommand_of_decodeTableWord {nbits w : Nat} {i : Instr} (h : decodeTableWord nbits w = some i) :
    decodeCommand (tableCmdWord nbits w) = .ok i := by
  unfold decodeTableWord at h
  split at h
  · cases h
  · cases hd : decodeCommand (tableCmdWord nbits w) with
    | ok j => simpa [hd] using h
    | error c => simp [hd] at h

/-- Taking back the table word that was placed restores the state (log 6). -/
theorem withFetchWord_afterTake (s : State) (nbits w : Nat) :
    (s.withFetchWord nbits w).afterTake s.cmdPort = s := rfl

/-- Settles O10: the function is `responseTo`. -/
theorem responseIsAFunctionOfTheCommandWord : Obligations.ResponseIsAFunctionOfTheCommandWord := by
  unfold Obligations.ResponseIsAFunctionOfTheCommandWord
  refine ⟨responseTo, fun s w rest h => ⟨_, step_of_cons h, ?_, ?_, ?_⟩⟩
  · simp
  · simp
  · simp [transact]

/-- Settles O9: the response is `responseTo` of the word, and an idle step answers the same state. -/
theorem oneResponsePerCommand : Obligations.OneResponsePerCommand := by
  unfold Obligations.OneResponsePerCommand
  refine ⟨fun s w rest h => ⟨responseTo w, step_of_cons h⟩, fun s t h ht => ?_⟩
  rw [step_of_nil h] at ht
  cases ht
  rfl

/-- Settles O14: the response is `responseOf` the command, chosen before the state. -/
theorem everyCommandOnlyAppendsItsResponse : Obligations.EveryCommandOnlyAppendsItsResponse := by
  unfold Obligations.EveryCommandOnlyAppendsItsResponse
  exact fun i => ⟨responseOf i, exec_eq_respond i⟩

/-- Settles O7: decoding selects the meaning, and the word `withFetchWord` places is the oldest at the port. -/
theorem stepRunsTheDecodedCommand : Obligations.StepRunsTheDecodedCommand := by
  unfold Obligations.StepRunsTheDecodedCommand
  refine ⟨fun s w rest i h hd => step_of_cons_of_decode h hd, fun s nbits w i h => ?_⟩
  rw [step_of_cons_of_decode (withFetchWord_cmdPort s nbits w) (decodeCommand_of_decodeTableWord h),
    withFetchWord_afterTake]

/-- Settles O16: both ports are empty at reset, so nothing is pending and both invariants hold vacuously. -/
theorem resetIsIdleAndLawful : Obligations.ResetIsIdleAndLawful := by
  unfold Obligations.ResetIsIdleAndLawful
  exact ⟨reset_rspPort, rfl, step_of_nil reset_cmdPort, rfl, rfl⟩

end Sys2Proof.Machine

/-! PROOFS. The fields of `decompose` as slices of `BITS`, and what the class says of them (10_state.md R15, R16;
40_decode.md R62 to R69). -/

namespace Sys2Proof

/-- Below the sign bit stand the exponent and the mantissa field (R12). -/
theorem Fmt.pw_sub_one (f : Fmt) : f.pw - 1 = f.ew + f.mw := by cases f <;> rfl

/-- A pattern has a sign bit (R10). -/
theorem Fmt.pw_pos (f : Fmt) : 0 < f.pw := by cases f <;> decide

/-- A pattern fits the 32-bit field `BITS` (R15). -/
theorem Fmt.pw_le (f : Fmt) : f.pw ≤ 32 := by cases f <;> decide

namespace Machine

/-- `BITS` is the pattern, right-aligned (R15). -/
theorem bits_toNat (fmt : Fmt) (p : Pattern fmt) : (p.setWidth 32).toNat = p.toNat :=
  BitVec.toNat_setWidth_of_le fmt.pw_le

/-- `BITS` and the pattern have the same bits (R15). -/
theorem bits_getLsbD (fmt : Fmt) (p : Pattern fmt) (i : Nat) : (p.setWidth 32).getLsbD i = p.getLsbD i := by
  rw [← BitVec.testBit_toNat, bits_toNat, BitVec.testBit_toNat]

/-- A slice of `BITS` is that slice of the pattern (R15, R16). -/
theorem bits_extractLsb' (fmt : Fmt) (p : Pattern fmt) (start len : Nat) :
    (p.setWidth 32).extractLsb' start len = p.extractLsb' start len :=
  BitVec.eq_of_toNat_eq (by simp only [BitVec.extractLsb'_toNat, bits_toNat])

/-- `EXPB` is a slice of `BITS` (R16). -/
theorem expbOf_eq_slice (fmt : Fmt) (p : Pattern fmt) :
    expbOf fmt p = ((p.setWidth 32).extractLsb' fmt.mw fmt.ew).setWidth 8 := by
  rw [bits_extractLsb', expbOf]

/-- `MAN` is a slice of `BITS` (R16). -/
theorem manOf_eq_slice (fmt : Fmt) (p : Pattern fmt) :
    manOf fmt p = ((p.setWidth 32).extractLsb' 0 fmt.mw).setWidth 23 := by
  rw [bits_extractLsb', manOf]

/-- The sign bit as a number (R62). -/
theorem signOf_toNat (fmt : Fmt) (p : Pattern fmt) : (signOf fmt p).toNat = p.toNat / 2 ^ (fmt.pw - 1) := by
  have hlt : p.toNat / 2 ^ (fmt.pw - 1) < 2 :=
    Nat.div_lt_of_lt_mul (by rw [Nat.two_pow_pred_mul_two fmt.pw_pos]; exact p.isLt)
  rw [signOf, ← BitVec.testBit_toNat, Nat.toNat_testBit, Nat.mod_eq_of_lt hlt]

/-- Sign, exponent and mantissa field, each at its place, add up to the pattern (R12). -/
theorem toNat_eq_fields (fmt : Fmt) (p : Pattern fmt) :
    p.toNat = (signOf fmt p).toNat * 2 ^ (fmt.pw - 1) + (expbOf fmt p).toNat * 2 ^ fmt.mw + (manOf fmt p).toNat := by
  rw [signOf_toNat, expbOf_toNat, manOf_toNat, fmt.pw_sub_one, Nat.add_comm fmt.ew, Nat.pow_add,
    ← Nat.div_div_eq_div_mul]
  have hlow := Nat.div_add_mod' p.toNat (2 ^ fmt.mw)
  have hhigh := Nat.div_add_mod' (p.toNat / 2 ^ fmt.mw) (2 ^ fmt.ew)
  calc p.toNat
      = (p.toNat / 2 ^ fmt.mw / 2 ^ fmt.ew * 2 ^ fmt.ew + p.toNat / 2 ^ fmt.mw % 2 ^ fmt.ew) * 2 ^ fmt.mw
          + p.toNat % 2 ^ fmt.mw := by rw [hhigh, hlow]
    _ = _ := by ring

/-- The mantissa field has `MW` bits (R64). -/
theorem man_toNat_lt (fmt : Fmt) (p : Pattern fmt) : (decompose fmt p).man.toNat < 2 ^ fmt.mw := by
  rw [decompose_man, manOf_toNat]
  exact Nat.mod_lt _ (Nat.two_pow_pos _)

/-- `SPC` is set exactly for the four special classes (R16, R64). -/
theorem isSpecial_iff (cls : Cls) : isSpecial cls = true ↔ cls ≠ .normal := bne_iff_ne

/-- The implicit bit is present exactly where the pattern is not special (R65 to R69). -/
theorem implicitBit_eq_not_isSpecial (cls : Cls) : implicitBit cls = !isSpecial cls := by cases cls <;> rfl

/-- Settles O25, from the slices of `BITS` and the sum of the fields. -/
theorem fieldsReassembleThePattern : Obligations.FieldsReassembleThePattern := by
  unfold Obligations.FieldsReassembleThePattern
  intro fmt p
  refine ⟨bits_toNat fmt p, (bits_getLsbD fmt p _).symm, ?_, manOf_eq_slice fmt p, toNat_eq_fields fmt p,
    isSpecial_iff _⟩
  rw [fmt.pw_sub_one, Nat.add_sub_cancel]
  exact expbOf_eq_slice fmt p

/-- The class is special exactly on the two reserved exponent fields (R64). -/
theorem classify_ne_normal_iff (fmt : Fmt) (expb : BitVec 8) (man : BitVec 23) :
    classify fmt expb man ≠ .normal ↔ expb.toNat = 0 ∨ expb.toNat = fmt.maxb := by
  have hzero : expb = 0#8 ↔ expb.toNat = 0 := BitVec.toNat_eq
  unfold classify
  split_ifs <;> simp_all

/-- A Denormalized mantissa is not zero (R64, R69). -/
theorem man_ne_zero_of_denormalized {fmt : Fmt} {expb : BitVec 8} {man : BitVec 23}
    (h : classify fmt expb man = .denormalized) : man.toNat ≠ 0 := by
  have hzero : man = 0#23 ↔ man.toNat = 0 := BitVec.toNat_eq
  unfold classify at h
  split_ifs at h
  simp_all

/-- The represented value is a `Val` of R7: the only significands are `2^MW + MAN` and a non-zero `MAN` (R65, R69). -/
theorem decompose_fv_wf (fmt : Fmt) (p : Pattern fmt) : (decompose fmt p).fv.wf = true := by
  change (valueOf fmt (classify fmt (expbOf fmt p) (manOf fmt p)) _ _ _).wf = true
  cases h : classify fmt (expbOf fmt p) (manOf fmt p) with
  | infinity => rfl
  | nan => rfl
  | zero => rfl
  | denormalized => simpa [valueOf, Val.wf] using Nat.pos_of_ne_zero (man_ne_zero_of_denormalized h)
  | normal => simp [valueOf, Val.wf]

end Machine

end Sys2Proof

/-! PROOFS. Every response the block gives is lawful (10_state.md R16, 42_precision_loss.md R105), so every step
keeps the port lawful. -/

namespace Sys2Proof.Machine

/-- Flags R105 allows: an overflow or an underflow is a loss, and they exclude each other. -/
def lawfulFlags (loss ovf unf : Bool) : Bool := (!ovf || loss) && (!unf || loss) && !(ovf && unf)

/-- The flags of R101 to R103 are such flags: no value is both an infinity and a zero. -/
theorem lawfulFlags_of_values (o f : Val) : lawfulFlags (lossFlag o f) (ovfFlag o f) (unfFlag o f) = true := by
  have hexcl : (f.isInf && f.isZero) = false := by cases f <;> rfl
  unfold lawfulFlags ovfFlag unfFlag
  revert hexcl
  cases lossFlag o f <;> cases f.isInf <;> cases f.isZero <;> simp

/-- The record of a pattern, under any flags R105 allows, obeys every equation of its profile (R16). -/
theorem lawfulFields_withFlags (fmt : Fmt) (p : Pattern fmt) {loss ovf unf : Bool}
    (hflags : lawfulFlags loss ovf unf = true) :
    lawfulFields fmt ((decompose fmt p).withFlags loss ovf unf) = true := by
  have hspc : isSpecial (decompose fmt p).cls = ((expbOf fmt p).toNat == 0 || (expbOf fmt p).toNat == fmt.maxb) := by
    rw [Bool.eq_iff_iff, isSpecial_iff, decompose_cls, classify_ne_normal_iff]
    simp
  have hbits : (p.setWidth 32).toNat < 2 ^ fmt.pw := by rw [bits_toNat]; exact p.isLt
  simp only [lawfulFlags, Bool.and_eq_true] at hflags
  obtain ⟨⟨hovf, hunf⟩, hexcl⟩ := hflags
  simp only [lawfulFields, Bool.and_eq_true, beq_iff_eq, decide_eq_true_eq, and_assoc]
  exact ⟨hbits, (bits_getLsbD fmt p _).symm, expbOf_eq_slice fmt p, manOf_eq_slice fmt p, rfl, rfl, hspc,
    implicitBit_eq_not_isSpecial _, rfl, hovf, hunf, hexcl, decompose_fv_wf fmt p⟩

/-- The record a conversion computes is lawful for its format (R80). -/
theorem lawfulFields_convert (fmt : Fmt) (src : Word) : lawfulFields fmt (convert fmt src) = true := by
  rw [convert_eq]
  exact lawfulFields_withFlags fmt _ (lawfulFlags_of_values _ _)

/-- The record `decompose` computes is lawful for its format, with the flags clear (R104). -/
theorem lawfulFields_decompose (fmt : Fmt) (p : Pattern fmt) : lawfulFields fmt (decompose fmt p) = true :=
  lawfulFields_withFlags fmt p (loss := false) (ovf := false) (unf := false) rfl

/-- A record lawful for one of the three profiles is a lawful response (R16). -/
theorem lawfulResponse_ok {fmt : Fmt} {r : Fields} (h : lawfulFields fmt r = true) : lawfulResponse (.ok r) = true := by
  cases fmt <;> simp [lawfulResponse, h]

/-- A `DEC` answers lawfully, with a record or with a fault (R71 to R73). -/
theorem lawfulResponse_decResponse (fmt : Fmt) (src : Word) : lawfulResponse (decResponse fmt src) = true := by
  unfold decResponse
  cases operand fmt src with
  | error c => rfl
  | ok p => exact lawfulResponse_ok (lawfulFields_decompose fmt p)

/-- Every command answers lawfully. -/
theorem lawfulResponse_responseOf (i : Instr) : lawfulResponse (responseOf i) = true := by
  cases i with
  | decFp32 src => exact lawfulResponse_decResponse .fp32 src
  | decFp16 src => exact lawfulResponse_decResponse .fp16 src
  | decBf16 src => exact lawfulResponse_decResponse .bf16 src
  | cvtFp32 src => exact lawfulResponse_ok (lawfulFields_convert .fp32 src)
  | cvtFp16 src => exact lawfulResponse_ok (lawfulFields_convert .fp16 src)
  | cvtBf16 src => exact lawfulResponse_ok (lawfulFields_convert .bf16 src)

/-- Every command word is answered lawfully, the words that are no command included. -/
theorem lawfulResponse_responseTo (w : CmdWord) : lawfulResponse (responseTo w) = true := by
  unfold responseTo
  cases decodeCommand w with
  | error c => rfl
  | ok i => exact lawfulResponse_responseOf i

/-- A lawful response put on a lawful port leaves it lawful. -/
theorem lawfulPort_respond {s : State} {r : Response} (hs : lawfulPort s = true) (hr : lawfulResponse r = true) :
    lawfulPort (s.respond r) = true := by
  unfold lawfulPort at hs ⊢
  rw [respond_rspPort, List.all_append, hs]
  simpa using hr

/-- Settles O17: an idle step changes nothing, and the one response a command gets is lawful. -/
theorem stepKeepsThePortLawful : Obligations.StepKeepsThePortLawful := by
  unfold Obligations.StepKeepsThePortLawful
  intro s hs
  cases h : s.cmdPort with
  | nil => exact ⟨s, step_of_nil h, hs⟩
  | cons w rest => exact ⟨_, step_of_cons h, lawfulPort_respond hs (lawfulResponse_responseTo w)⟩

end Sys2Proof.Machine

/-! PROOFS. The numbers that are functions of the record: `FRAC` as a binary sum, `MANV`, `SGNV` (10_state.md R17). -/

namespace Sys2Proof.Machine

/-- The low `k` bits of a number, the highest of them worth `2^-1`, sum to `(n mod 2^k) / 2^k`. -/
theorem sum_testBit_eq_div (n k : Nat) :
    ∑ i ∈ Finset.range k, (if n.testBit (k - 1 - i) then (2 : Rat) ^ (-(i + 1 : Int)) else 0)
      = ((n % 2 ^ k : Nat) : Rat) / 2 ^ k := by
  induction k with
  | zero => simp [Nat.mod_one]
  | succ k ih =>
    have htail : ∀ i : Nat, (if n.testBit (k + 1 - 1 - (i + 1)) then (2 : Rat) ^ (-((i + 1 : Nat) + 1 : Int)) else 0)
        = (if n.testBit (k - 1 - i) then (2 : Rat) ^ (-(i + 1 : Int)) else 0) * (1 / 2) := by
      intro i
      have hexp : (2 : Rat) ^ (-((i + 1 : Nat) + 1 : Int)) = 2 ^ (-(i + 1 : Int)) * (1 / 2) := by
        rw [Nat.cast_succ, neg_add, zpow_add₀ two_ne_zero]
        norm_num
      rw [show k + 1 - 1 - (i + 1) = k - 1 - i by omega, hexp, ite_mul, zero_mul]
    rw [Finset.sum_range_succ', Finset.sum_congr rfl (fun i _ => htail i), ← Finset.sum_mul, ih, Nat.mod_pow_succ,
      ← Nat.toNat_testBit]
    cases hb : n.testBit k with
    | false =>
      simp [hb, pow_succ]
      ring
    | true =>
      have hpow : (2 : Rat) ^ k ≠ 0 := by positivity
      simp [hb, pow_succ]
      field_simp

/-- `FRAC` reads the mantissa bits from the most significant one down (R17). -/
theorem frac_eq_sum (fmt : Fmt) (p : Pattern fmt) :
    (decompose fmt p).frac fmt = ∑ i ∈ Finset.range fmt.mw,
      (if (decompose fmt p).man.getLsbD (fmt.mw - 1 - i) then (2 : Rat) ^ (-(i + 1 : Int)) else 0) := by
  have hman := Nat.mod_eq_of_lt (man_toNat_lt fmt p)
  simp only [← BitVec.testBit_toNat, sum_testBit_eq_div, hman, Fields.frac]

/-- `FRAC` is a quotient of natural numbers (R17). -/
theorem frac_nonneg (fmt : Fmt) (r : Fields) : 0 ≤ r.frac fmt := by
  unfold Fields.frac
  positivity

/-- `FRAC` stays below 1, `MAN` being below `2^MW` (R17, R64). -/
theorem frac_lt_one (fmt : Fmt) (p : Pattern fmt) : (decompose fmt p).frac fmt < 1 := by
  rw [Fields.frac, div_lt_one (by positivity)]
  exact_mod_cast man_toNat_lt fmt p

/-- Settles O32: the sum of the mantissa bits is `MAN / 2^MW`, and the bounds of `MANV` follow from those of `FRAC`. -/
theorem fractionIsTheBinarySum : Obligations.FractionIsTheBinarySum := by
  unfold Obligations.FractionIsTheBinarySum
  intro fmt p r
  have hfrac : 0 ≤ r.frac fmt := frac_nonneg fmt r
  have hlt : r.frac fmt < 1 := frac_lt_one fmt p
  have hmanv : r.manv fmt = (if r.hid then 1 else 0) + r.frac fmt := by
    unfold Fields.manv
    cases r.hid <;> simp
  obtain ⟨hmanv0, hmanv2⟩ : 0 ≤ r.manv fmt ∧ r.manv fmt < 2 := by
    rw [hmanv]
    split_ifs <;> constructor <;> linarith
  exact ⟨frac_eq_sum fmt p, rfl, hfrac, hlt, hmanv, hmanv0, hmanv2, rfl, decompose_fv_wf fmt p⟩

end Sys2Proof.Machine

/-! PROOFS. Runs over a queue of commands (20_memory.md R36), by induction on the queue from `run_succ_cons`. -/

namespace Sys2Proof.Machine

/-- Settles O11, by induction on the queue: the oldest word leaves first and its response is appended before those of
the words behind it. -/
theorem responsesInCommandOrder : Obligations.ResponsesInCommandOrder := by
  unfold Obligations.ResponsesInCommandOrder
  intro ws tail
  induction ws with
  | nil =>
    intro rs
    simp
  | cons w ws ih =>
    intro rs
    calc core.run (w :: ws).length (⟨w :: ws ++ tail, rs⟩ : State)
        = core.run ws.length (⟨ws ++ tail, rs ++ [responseTo w]⟩ : State) :=
          run_succ_cons ws.length w (ws ++ tail) rs
      _ = .next (⟨tail, rs ++ [responseTo w] ++ ws.map responseTo⟩ : State) := ih _
      _ = .next (⟨tail, rs ++ (w :: ws).map responseTo⟩ : State) := by simp

end Sys2Proof.Machine

/-! PROOFS. The command word (30_encoding.md section 1): a word is its control byte and its operand, and it decodes to
a command exactly when both are the command's. Encoding, decoding, the opcode map and the rejection of R46 are all read
off that equivalence. -/

namespace Sys2Proof

/-- The control byte and the operand are the whole word (R40). -/
theorem cmdCtl_append_cmdSrc (w : CmdWord) : (cmdCtl w ++ cmdSrc w : BitVec 40) = w :=
  (BitVec.extractLsb'_append_extractLsb'_eq_extractLsb' rfl).trans BitVec.extractLsb'_eq_self

/-- The control byte of a word put together from its two parts (R40). -/
theorem cmdCtl_append (c : BitVec 8) (s : Word) : cmdCtl (c ++ s : BitVec 40) = c :=
  BitVec.extractLsb'_append_eq_left

@[simp] theorem cmdCtl_encode (i : Instr) : cmdCtl (encode i) = i.ctl := cmdCtl_append i.ctl i.src

@[simp] theorem cmdSrc_encode (i : Instr) : cmdSrc (encode i) = i.src := Laws.RowMatch.cmdSrc_append i.ctl i.src

/-- A word is a command exactly when it holds that command's control byte and operand (R44, R45, R53). -/
theorem decodeCommand_eq_ok_iff (w : CmdWord) (i : Instr) :
    decodeCommand w = .ok i ↔ cmdCtl w = i.ctl ∧ cmdSrc w = i.src := by
  constructor
  · intro h
    unfold decodeCommand at h
    split_ifs at h <;> cases h <;> exact ⟨‹_›, rfl⟩
  · rintro ⟨hctl, hsrc⟩
    cases i <;> simp [decodeCommand, hctl, hsrc, Instr.ctl, Instr.src]

/-- Settles O2: the encoding holds the command's own control byte and operand. -/
theorem decodeOfEncodeIsTheCommand : Obligations.DecodeOfEncodeIsTheCommand := by
  unfold Obligations.DecodeOfEncodeIsTheCommand
  exact fun i => (decodeCommand_eq_ok_iff _ i).mpr ⟨cmdCtl_encode i, cmdSrc_encode i⟩

/-- Settles O3: the control byte and the operand, which decoding reads, are the whole word. -/
theorem encodeOfDecodeIsTheWord : Obligations.EncodeOfDecodeIsTheWord := by
  unfold Obligations.EncodeOfDecodeIsTheWord
  intro w i h
  obtain ⟨hctl, hsrc⟩ := (decodeCommand_eq_ok_iff w i).mp h
  rw [encode, ← hctl, ← hsrc, cmdCtl_append_cmdSrc]

/-- The row of a command is a function of its control byte: its fields, and the byte over a zero operand (R44). -/
theorem row_eq_of_ctl (i : Instr) :
    i.row = ⟨i.ctl.extractLsb' 4 4, i.ctl.extractLsb' 0 2, i.ctl, i.ctl ++ 0#32, 0xFF00000000#40⟩ := by
  cases i <;> simp only [Instr.row, Instr.ctl] <;> decide

/-- A word matches a row under its mask exactly when it holds the row's control byte (R44). -/
theorem matches_row_iff (w : CmdWord) (i : Instr) :
    w &&& i.row.maskWord = i.row.matchWord ↔ cmdCtl w = i.ctl := by
  rw [row_eq_of_ctl]
  calc w &&& 0xFF00000000#40 = i.ctl ++ 0#32
      ↔ (cmdCtl w ++ 0#32 : BitVec 40) = i.ctl ++ 0#32 := by
        rw [← Laws.RowMatch.append_and_mask (cmdCtl w) (cmdSrc w), cmdCtl_append_cmdSrc]
    _ ↔ cmdCtl w = i.ctl := BitVec.append_left_inj 0#32

/-- `OP`, `RSV` and `FMT` are fields of the control byte (R40, R41). -/
theorem cmdOp_eq (w : CmdWord) : cmdOp w = (cmdCtl w).extractLsb' 4 4 := by
  ext k hk
  simp [cmdOp, cmdCtl, show 4 + k < 8 by omega, ← Nat.add_assoc]

theorem cmdRsv_eq (w : CmdWord) : cmdRsv w = (cmdCtl w).extractLsb' 2 2 := by
  ext k hk
  simp [cmdRsv, cmdCtl, show 2 + k < 8 by omega, ← Nat.add_assoc]

theorem cmdFmt_eq (w : CmdWord) : cmdFmt w = (cmdCtl w).extractLsb' 0 2 := by
  ext k hk
  simp [cmdFmt, cmdCtl, show k < 8 by omega]

/-- No command sets `RSV` (R44). -/
theorem ctl_rsv (i : Instr) : i.ctl.extractLsb' 2 2 = 0#2 := by cases i <;> simp [Instr.ctl]

/-- Settles O4: matching a row is holding its control byte, and the control byte determines the row. -/
theorem opcodeMapSelectsTheCommand : Obligations.OpcodeMapSelectsTheCommand := by
  unfold Obligations.OpcodeMapSelectsTheCommand
  refine ⟨fun src => ⟨rfl, rfl, rfl, rfl, rfl, rfl⟩, fun w i => ?_, fun w i h => ?_, fun w i j hi hj => ?_⟩
  · rw [decodeCommand_eq_ok_iff, matches_row_iff, eq_comm (a := cmdSrc w)]
  · obtain ⟨hctl, -⟩ := (decodeCommand_eq_ok_iff w i).mp h
    rw [cmdOp_eq, cmdRsv_eq, cmdFmt_eq, hctl, row_eq_of_ctl]
    exact ⟨rfl, ctl_rsv i, rfl, rfl⟩
  · have hctl : i.ctl = j.ctl := ((matches_row_iff w i).mp hi).symm.trans ((matches_row_iff w j).mp hj)
    rw [row_eq_of_ctl i, row_eq_of_ctl j, hctl]

/-- The six control bytes of the opcode map (R44). -/
def controlBytes : List (BitVec 8) := [0x10#8, 0x11#8, 0x12#8, 0x20#8, 0x21#8, 0x22#8]

/-- A word is rejected exactly when its control byte is none of the six (R46, R53). -/
theorem decodeCommand_eq_error_iff (w : CmdWord) :
    decodeCommand w = .error .illegalCommand ↔ cmdCtl w ∉ controlBytes := by
  unfold decodeCommand
  split_ifs <;> simp_all [controlBytes]

/-- The six control bytes are the ones with `OP` 1 or 2, `RSV` zero and `FMT` not `0b11` (R46). -/
theorem not_mem_controlBytes_iff (c : BitVec 8) :
    c ∉ controlBytes ↔
      (c.extractLsb' 4 4 ≠ 1 ∧ c.extractLsb' 4 4 ≠ 2) ∨ c.extractLsb' 0 2 = 3 ∨ c.extractLsb' 2 2 ≠ 0 := by
  revert c
  decide

/-- Of the 256 control bytes 250 are none of the six, counted by quarters (R46). -/
theorem length_filter_not_mem_controlBytes :
    ((List.range 256).filter fun c => decide (BitVec.ofNat 8 c ∉ controlBytes)).length = 250 := by
  rw [show 256 = 64 + 64 + 64 + 64 by rfl]
  simp only [List.range_add, List.filter_append, List.length_append]
  decide

/-- The only rejection of the decoder is `IllegalCommand` (R53). -/
theorem decodeCommand_total (w : CmdWord) :
    decodeCommand w = .error .illegalCommand ∨ ∃ i, decodeCommand w = .ok i := by
  cases h : decodeCommand w with
  | ok i => exact .inr ⟨i, rfl⟩
  | error code =>
    unfold decodeCommand at h
    split_ifs at h
    exact .inl h.symm

/-- Settles O5: every clause is about the control byte alone, and there are 256 of them. -/
theorem illegalExactlyWhenAFieldIsReserved : Obligations.IllegalExactlyWhenAFieldIsReserved := by
  unfold Obligations.IllegalExactlyWhenAFieldIsReserved
  refine ⟨fun w => ?_, decodeCommand_eq_error_iff, fun src => ?_, decodeCommand_total⟩
  · rw [decodeCommand_eq_error_iff, not_mem_controlBytes_iff, cmdOp_eq, cmdFmt_eq, cmdRsv_eq]
  · simp only [decodeCommand_eq_error_iff, cmdCtl_append]
    exact length_filter_not_mem_controlBytes

/-- Settles O1: closed words, evaluated by the decoder. -/
theorem wordsOfTheOpcodeMapDecode : Obligations.WordsOfTheOpcodeMapDecode := by
  unfold Obligations.WordsOfTheOpcodeMapDecode
  decide

end Sys2Proof

/-! PROOFS. The assembler text (30_encoding.md R52): a number is read back from its hexadecimal digits, so a line is
read back as its command and a printed word as its number. -/

namespace Sys2Proof

/-- The encoding as a number: the control byte above the 32 bits of the operand (R40). -/
theorem encode_toNat (i : Instr) : (encode i).toNat = i.ctl.toNat * 2 ^ 32 + i.src.toNat := by
  rw [encode, BitVec.toNat_append, ← Nat.shiftLeft_add_eq_or_of_lt i.src.isLt, Nat.shiftLeft_eq]

namespace Machine

/-- A hexadecimal digit is read back as its value. -/
theorem hexValue_hexDigit {d : Nat} (h : d < 16) : hexValue (hexDigit d) = some d := by
  revert d
  decide

@[simp] theorem length_hexDigits (k n : Nat) : (hexDigits k n).length = k := by
  induction k generalizing n with
  | zero => rfl
  | succ k ih => simp [hexDigits, ih]

/-- Reading goes on where the first part of the digits ended. -/
theorem readHex_append {cs ds : List Char} {acc n : Nat} (h : readHex cs acc = some n) :
    readHex (cs ++ ds) acc = readHex ds n := by
  induction cs generalizing acc with
  | nil => cases h; rfl
  | cons c cs ih =>
    simp only [List.cons_append, readHex] at h ⊢
    cases hc : hexValue c with
    | none => simp [hc] at h
    | some d => exact ih (by simpa [hc] using h)

/-- The `k` digits printed for a number below `16^k` are read back as that number. -/
theorem readHex_hexDigits {k n : Nat} (h : n < 16 ^ k) : readHex (hexDigits k n) 0 = some n := by
  induction k generalizing n with
  | zero => simp_all [hexDigits, readHex]
  | succ k ih =>
    have hhigh : n / 16 < 16 ^ k := Nat.div_lt_of_lt_mul (by rwa [Nat.pow_succ'] at h)
    rw [hexDigits, readHex_append (ih hhigh)]
    simp [readHex, hexValue_hexDigit (Nat.mod_lt n (by decide : 0 < 16)), Nat.div_add_mod']

@[simp] theorem length_mnemonic (i : Instr) : (mnemonic i).length = 8 := by cases i <;> rfl

/-- A mnemonic names its own command (R44). -/
theorem ofMnemonic_mnemonic (i : Instr) : ofMnemonic (mnemonic i) i.src = some i := by
  cases i <;> simp [ofMnemonic, mnemonic, Instr.src]

@[simp] theorem length_printLine (i : Instr) : (printLine i).length = 19 := by simp [printLine]

@[simp] theorem length_printWord (w : CmdWord) : (printWord w).length = 12 := by simp [printWord]

/-- The first eight characters of a line are the mnemonic (R52). -/
theorem take_mnemonic_printLine (i : Instr) : (printLine i).take 8 = mnemonic i := by
  rw [printLine, List.append_assoc, List.take_left' (length_mnemonic i)]

/-- After the mnemonic stand a blank, `0x` and the eight digits of the operand (R52). -/
theorem drop_mnemonic_printLine (i : Instr) :
    (printLine i).drop 8 = [' ', '0', 'x'] ++ hexDigits 8 i.src.toNat := by
  rw [printLine, List.append_assoc, List.drop_left' (length_mnemonic i)]

/-- A printed line is read back as its command (R52). -/
theorem parseLine_printLine (i : Instr) : parseLine (printLine i) = some i := by
  have hmark : ((printLine i).drop 8).take 3 = [' ', '0', 'x'] := by rw [drop_mnemonic_printLine]; rfl
  have hdigits : (printLine i).drop 11 = hexDigits 8 i.src.toNat := by
    rw [← List.drop_drop (i := 3) (j := 8), drop_mnemonic_printLine]; rfl
  have hread : readHex ((printLine i).drop 11) 0 = some i.src.toNat := by
    rw [hdigits]; exact readHex_hexDigits i.src.isLt
  rw [parseLine, if_pos ⟨length_printLine i, hmark⟩, hread, take_mnemonic_printLine]
  simpa using ofMnemonic_mnemonic i

/-- Settles O6: eight digits hold every operand and ten every command word. -/
theorem assemblerLineReadsBack : Obligations.AssemblerLineReadsBack := by
  unfold Obligations.AssemblerLineReadsBack
  intro i
  have hword : readHex ((printWord (encode i)).drop 2) 0 = some (encode i).toNat := readHex_hexDigits (encode i).isLt
  rw [encode_toNat] at hword
  exact ⟨parseLine_printLine i, length_printLine i, hword, length_printWord _⟩

end Machine

end Sys2Proof

/-! PROOFS. The debiased exponent (40_decode.md R63, 30_encoding.md R48): the exponent field lies in `[0, MAXB]` with
`MAXB = 2 * BIAS + 1`, so nine bits hold `EXPB - BIAS`. -/

namespace Sys2Proof

/-- The bias is half the largest exponent, rounded down (R11). -/
theorem Fmt.maxb_eq (f : Fmt) : f.maxb = 2 * f.bias + 1 := by cases f <;> rfl

/-- The bias fits the nine-bit `EXPV` with its sign (R48). -/
theorem Fmt.bias_le (f : Fmt) : f.bias ≤ 127 := by cases f <;> decide

namespace Machine

/-- The exponent field is at most its all-ones value (R63). -/
theorem expbOf_le_maxb (fmt : Fmt) (p : Pattern fmt) : (expbOf fmt p).toNat ≤ fmt.maxb := by
  rw [expbOf_toNat, Fmt.maxb]
  exact Nat.le_sub_one_of_lt (Nat.mod_lt _ (Nat.two_pow_pos _))

/-- The debiased exponent lies between `-BIAS` and `BIAS + 1` (R48). -/
theorem debias_bounds (fmt : Fmt) (p : Pattern fmt) :
    -(fmt.bias : Int) ≤ debias fmt (expbOf fmt p) ∧ debias fmt (expbOf fmt p) ≤ fmt.bias + 1 := by
  have hmax := expbOf_le_maxb fmt p
  rw [fmt.maxb_eq] at hmax
  unfold debias
  omega

/-- `EXPV`, read as a signed number, is the debiased exponent: nine bits hold it (R48). -/
theorem expv_toInt (fmt : Fmt) (p : Pattern fmt) : (decompose fmt p).expv.toInt = debias fmt (expbOf fmt p) := by
  obtain ⟨hlow, hhigh⟩ := debias_bounds fmt p
  have hbias := fmt.bias_le
  rw [decompose_expv]
  exact BitVec.toInt_ofInt_eq_self (by decide) (by omega) (by omega)

/-- Settles O26: the bounds of each format are those of its bias. -/
theorem debiasedExponentIsExact : Obligations.DebiasedExponentIsExact := by
  unfold Obligations.DebiasedExponentIsExact
  have hbounds (fmt : Fmt) (p : Pattern fmt) : -(fmt.bias : Int) ≤ (decompose fmt p).expv.toInt
      ∧ (decompose fmt p).expv.toInt ≤ fmt.bias + 1 := expv_toInt fmt p ▸ debias_bounds fmt p
  refine ⟨fun fmt p => ?_, hbounds .fp32, hbounds .bf16, hbounds .fp16, by decide⟩
  refine ⟨expbOf_toNat fmt p, expbOf_le_maxb fmt p, rfl, expv_toInt fmt p, fun hzero => ?_, fun hones => ?_⟩
  · rw [decompose_expb] at hzero
    rw [expv_toInt, debias, hzero]
    simp
  · rw [decompose_expb, fmt.maxb_eq] at hones
    rw [expv_toInt, debias, hones]
    omega

end Machine

end Sys2Proof

/-! PROOFS. The response word (30_encoding.md R47 to R51): every field of the record at its bits, and the codes of
`ERR` and `CLS`. -/

namespace Sys2Proof.Machine

/-- A bit of the upper part of a concatenation. -/
theorem getLsbD_append_of_le {n m i : Nat} {x : BitVec n} {y : BitVec m} (h : m ≤ i) :
    (x ++ y).getLsbD i = x.getLsbD (i - m) := by
  rw [BitVec.getLsbD_append, if_neg (Nat.not_lt.mpr h)]

/-- A bit of the lower part of a concatenation. -/
theorem getLsbD_append_of_lt {n m i : Nat} {x : BitVec n} {y : BitVec m} (h : i < m) :
    (x ++ y).getLsbD i = y.getLsbD i := by
  rw [BitVec.getLsbD_append, if_pos h]

/-- Settles O50: reading a field skips the fields below it one by one, and ends in the field itself. -/
theorem responseWordLayout : Obligations.ResponseWordLayout := by
  unfold Obligations.ResponseWordLayout
  intro r
  simp only [pack, packFields]
  refine ⟨?_, ?_, ?_, ?_, ?_, ?_, ?_, ?_, ?_, ?_, ?_, ?_, ?_, ?_⟩
  all_goals
    simp (disch := decide) only [BitVec.extractLsb'_append_eq_of_add_le, BitVec.extractLsb'_append_eq_of_le,
      getLsbD_append_of_lt, getLsbD_append_of_le]
    simp

/-- The code of a class is read back as the class (R49). -/
@[simp] theorem clsOfCode_code (cls : Cls) : clsOfCode cls.code = some cls := by cases cls <;> rfl

/-- No two classes share a code (R49). -/
@[simp] theorem Cls.code_inj {c d : Cls} : c.code = d.code ↔ c = d := by
  refine ⟨fun h => ?_, congrArg Cls.code⟩
  simpa using congrArg clsOfCode h

/-- Codes 5 to 7 stand for no class (R49, U10). -/
theorem Cls.code_le (cls : Cls) : cls.code.toNat ≤ 4 := by cases cls <;> decide

/-- The host reads every field of a record back from its word, and `FV` as the value of `FV32` (R47, D10). -/
theorem unpack_pack_ok (r : Fields) : unpack (pack (.ok r)) = some (.ok { r with fv := v32 r.fv32 }) := by
  obtain ⟨hbits, hfv32, hman, hhid, hexpb, hexpv, hsgn, hspc, hcls, hloss, hovf, hunf, herr, hzero⟩ :=
    responseWordLayout r
  have hread : readFields (pack (.ok r)) r.cls = { r with fv := v32 r.fv32 } := by
    simp only [readFields, hbits, hfv32, hman, hhid, hexpb, hexpv, hsgn, hspc, hloss, hovf, hunf]
  rw [unpack, if_neg (fun h => h hzero), if_pos (show _ = 0#2 from herr), hcls, clsOfCode_code, Option.map_some, hread]

/-- The host reads a fault back from its word (R50, R51). -/
theorem unpack_pack_fault (code : FaultCode) : unpack (pack (.fault code)) = some (.fault code) := by
  cases code <;> decide

end Sys2Proof.Machine

/-! PROOFS. Every record the block answers with is a decomposed pattern under some flags (40_decode.md R71 to R73,
41_convert.md R80). -/

namespace Sys2Proof.Machine

/-- `r` is the record of a pattern of the format, under some flags. -/
def IsRecord (fmt : Fmt) (r : Fields) : Prop :=
  ∃ (p : Pattern fmt) (loss ovf unf : Bool), r = (decompose fmt p).withFlags loss ovf unf

/-- A `DEC` answers with the record of its operand's pattern (R71 to R73). -/
theorem isRecord_of_decResponse {fmt : Fmt} {src : Word} {r : Fields} (h : decResponse fmt src = .ok r) :
    IsRecord fmt r := by
  unfold decResponse at h
  cases hop : operand fmt src with
  | error code => simp [hop] at h
  | ok p =>
    have hr : decompose fmt p = r := by simpa [hop] using h
    exact ⟨p, false, false, false, hr.symm⟩

/-- A `CVT` answers with the record of the encoded pattern (R80). -/
theorem isRecord_convert (fmt : Fmt) (src : Word) : IsRecord fmt (convert fmt src) :=
  ⟨_, _, _, _, convert_eq fmt src⟩

/-- A command that does not fault answers with a record of its format. -/
theorem isRecord_of_responseOf {i : Instr} {r : Fields} (h : responseOf i = .ok r) : IsRecord i.fmt r := by
  cases i with
  | decFp32 src => exact isRecord_of_decResponse h
  | decFp16 src => exact isRecord_of_decResponse h
  | decBf16 src => exact isRecord_of_decResponse h
  | cvtFp32 src => cases h; exact isRecord_convert .fp32 src
  | cvtFp16 src => cases h; exact isRecord_convert .fp16 src
  | cvtBf16 src => cases h; exact isRecord_convert .bf16 src

/-- A word that is not answered by a fault is answered by a record of some format. -/
theorem isRecord_of_responseTo {w : CmdWord} {r : Fields} (h : responseTo w = .ok r) :
    ∃ fmt : Fmt, IsRecord fmt r := by
  unfold responseTo at h
  cases hd : decodeCommand w with
  | error code => simp [hd] at h
  | ok i => exact ⟨i.fmt, isRecord_of_responseOf (by simpa [hd] using h)⟩

/-- `SPC` of every record the block answers with (R16). -/
theorem spc_iff_of_responseTo {w : CmdWord} {r : Fields} (h : responseTo w = .ok r) :
    r.spc = true ↔ r.cls ≠ .normal := by
  obtain ⟨fmt, p, loss, ovf, unf, rfl⟩ := isRecord_of_responseTo h
  exact isSpecial_iff _

end Sys2Proof.Machine

/-! PROOFS. What a response word shows of its response: `ERR`, `CLS` with `SPC`, and the zero bits (30_encoding.md R49
to R51). -/

namespace Sys2Proof.Machine

/-- The `ERR` code of a response (R50). -/
def errOf : Response → BitVec 2
  | .ok _ => 0
  | .fault code => errCode code

/-- `ERR` stands at `RSP[114:113]` of every response word (R47, R51). -/
theorem err_pack (rsp : Response) : (pack rsp).extractLsb' 113 2 = errOf rsp := by
  cases rsp with
  | ok r =>
    obtain ⟨-, -, -, -, -, -, -, -, -, -, -, -, herr, -⟩ := responseWordLayout r
    exact herr
  | fault code => cases code <;> rfl

/-- `RSP[127:115]` is zero in every response word (R47, R51). -/
theorem top_pack (rsp : Response) : (pack rsp).extractLsb' 115 13 = 0 := by
  cases rsp with
  | ok r =>
    obtain ⟨-, -, -, -, -, -, -, -, -, -, -, -, -, hzero⟩ := responseWordLayout r
    exact hzero
  | fault code => cases code <;> rfl

/-- `SPC` and `CLS` stand at `RSP[106]` and `RSP[109:107]` of a record's word (R47). -/
theorem spc_cls_pack_ok (r : Fields) :
    (pack (.ok r)).getLsbD 106 = r.spc ∧ (pack (.ok r)).extractLsb' 107 3 = r.cls.code := by
  obtain ⟨-, -, -, -, -, -, -, hspc, hcls, -⟩ := responseWordLayout r
  exact ⟨hspc, hcls⟩

/-- The `CLS` bits of a fault word are filler (R51). -/
theorem cls_pack_fault (code : FaultCode) : (pack (.fault code)).extractLsb' 107 3 = 0 := by
  cases code <;> rfl

theorem errOf_ne_three (rsp : Response) : errOf rsp ≠ 3 := by
  rcases rsp with r | code
  · simp [errOf]
  · cases code <;> simp [errOf, errCode]

theorem errOf_eq_zero_iff (rsp : Response) : errOf rsp = 0 ↔ ∃ r, rsp = .ok r := by
  rcases rsp with r | code
  · simp [errOf]
  · cases code <;> simp [errOf, errCode]

/-- The `ERR` code of a fault belongs to that fault alone (R50). -/
theorem errOf_eq_errCode_iff (rsp : Response) (code : FaultCode) : errOf rsp = errCode code ↔ rsp = .fault code := by
  rcases rsp with r | c
  · cases code <;> simp [errOf, errCode]
  · cases c <;> cases code <;> simp [errOf, errCode]

/-- Settles O51: `ERR` and the top bits are those of the kind of response, and `CLS` is the code of the class. -/
theorem reservedCodesNeverProduced : Obligations.ReservedCodesNeverProduced := by
  unfold Obligations.ReservedCodesNeverProduced
  intro w rsp
  have herr : rsp.extractLsb' 113 2 = errOf (responseTo w) := err_pack (responseTo w)
  have hok {r : Fields} (h : responseTo w = .ok r) :
      rsp.getLsbD 106 = r.spc ∧ rsp.extractLsb' 107 3 = r.cls.code := by
    simpa only [rsp, transact, h] using spc_cls_pack_ok r
  rw [herr]
  refine ⟨top_pack (responseTo w), errOf_ne_three _, ?_, fun hzero => ?_, fun r h => ?_, errOf_eq_zero_iff _,
    errOf_eq_errCode_iff _ .illegalCommand, errOf_eq_errCode_iff _ .malformedOperand, fun h => ?_, fun h => ?_⟩
  · cases h : responseTo w with
    | ok r => rw [(hok h).2]; exact r.cls.code_le
    | fault code => simp only [rsp, transact, h, cls_pack_fault]; decide
  · obtain ⟨r, h⟩ := (errOf_eq_zero_iff _).mp hzero
    obtain ⟨hspc, hcls⟩ := hok h
    rw [hspc, hcls, spc_iff_of_responseTo h]
    exact not_congr Cls.code_inj.symm
  · obtain ⟨-, hcls⟩ := hok h
    rw [hcls]
    exact ⟨Cls.code_inj (d := .normal), Cls.code_inj (d := .zero), Cls.code_inj (d := .infinity),
      Cls.code_inj (d := .nan), Cls.code_inj (d := .denormalized)⟩
  · simp only [rsp, transact, h]; rfl
  · simp only [rsp, transact, h]; rfl

end Sys2Proof.Machine

/-! PROOFS. `FV32` denotes `FV` (40_decode.md R70, R74 law 7): widening a pattern to FP32 scales its significand by a
power of two and its exponent back, format by format. -/

namespace Sys2Proof.Machine

theorem sameValue_refl (v : Val) : sameValue v v = true := by
  cases v <;> simp [sameValue, sameMagnitude]

/-- A significand scaled up and an exponent moved down by the same power of two denote the same number (R7). -/
theorem sameValue_fin_of_scaled {s : Bool} {n m : Nat} {k j : Int} (d : Nat) (hn : n = m * 2 ^ d) (hk : k = j - d) :
    sameValue (.fin s n k) (.fin s m j) = true := by
  subst hn hk
  simp [sameValue, sameMagnitude]

/-- The fields of a pattern put together from them (R12). -/
theorem signOf_assemble32 (s : Bool) (e : BitVec 8) (m : BitVec 23) : signOf .fp32 (assemble32 s e m) = s := by
  simp (disch := decide) only [signOf, assemble32, getLsbD_append_of_le]
  simp

theorem expbOf_assemble32 (s : Bool) (e : BitVec 8) (m : BitVec 23) : expbOf .fp32 (assemble32 s e m) = e := by
  simp (disch := decide) only [expbOf, assemble32, BitVec.extractLsb'_append_eq_of_le,
    BitVec.extractLsb'_append_eq_of_add_le]
  simp

theorem manOf_assemble32 (s : Bool) (e : BitVec 8) (m : BitVec 23) : manOf .fp32 (assemble32 s e m) = m := by
  simp (disch := decide) only [manOf, assemble32, BitVec.extractLsb'_append_eq_of_add_le]
  simp

/-- An assembled FP32 pattern denotes the value of its fields (R7). -/
theorem v32_assemble32 (s : Bool) (e : BitVec 8) (m : BitVec 23) :
    v32 (assemble32 s e m) = valueOf .fp32 (classify .fp32 e m) s e m := by
  change valueOf .fp32 (classify .fp32 _ _) _ _ _ = _
  rw [signOf_assemble32, expbOf_assemble32, manOf_assemble32]

/-- `FV32` of a decomposed pattern, by its class (R70). -/
theorem decompose_fv32 (fmt : Fmt) (p : Pattern fmt) :
    (decompose fmt p).fv32 = fv32Of fmt (decompose fmt p).cls (p.setWidth 32) (signOf fmt p) (expbOf fmt p)
      (manOf fmt p) := rfl

/-- `FV` of a decomposed pattern, by its class (R65 to R69). -/
theorem decompose_fv (fmt : Fmt) (p : Pattern fmt) :
    (decompose fmt p).fv = valueOf fmt (decompose fmt p).cls (signOf fmt p) (expbOf fmt p) (manOf fmt p) := rfl

/-- A NaN of any format is widened to `NAN32`, which is a NaN (R70). -/
theorem sameValue_fv32_of_nan {fmt : Fmt} {p : Pattern fmt} (h : (decompose fmt p).cls = .nan) :
    sameValue (v32 (decompose fmt p).fv32) (decompose fmt p).fv = true := by
  have hfv32 : (decompose fmt p).fv32 = nan32 := by
    rw [decompose_fv32, h]
    cases fmt <;> rfl
  have hnan : v32 nan32 = .nan := by decide
  rw [hfv32, hnan, decompose_fv, h]
  rfl

/-- An FP32 pattern that is no NaN is its own `FV32` (R70). -/
theorem fv32_fp32 {p : Pattern .fp32} (h : (decompose .fp32 p).cls ≠ .nan) : (decompose .fp32 p).fv32 = p := by
  rw [decompose_fv32]
  cases hcls : (decompose .fp32 p).cls with
  | nan => exact absurd hcls h
  | normal => exact BitVec.setWidth_eq p
  | zero => exact BitVec.setWidth_eq p
  | infinity => exact BitVec.setWidth_eq p
  | denormalized => exact BitVec.setWidth_eq p

/-- A mantissa field of `k` bits, moved up to fill 23 bits, as a number. -/
theorem man_shiftLeft_toNat {m : BitVec 23} {k d : Nat} (hm : m.toNat < 2 ^ k) (hk : k + d = 23) :
    (m <<< d).toNat = m.toNat * 2 ^ d := by
  have hlt : m.toNat * 2 ^ d < 2 ^ 23 :=
    calc m.toNat * 2 ^ d < 2 ^ k * 2 ^ d := Nat.mul_lt_mul_of_pos_right hm (Nat.two_pow_pos d)
      _ = 2 ^ 23 := by rw [← Nat.pow_add, hk]
  rw [BitVec.toNat_shiftLeft, Nat.shiftLeft_eq, Nat.mod_eq_of_lt hlt]

/-- An assembled FP32 pattern as a number (R12). -/
theorem assemble32_toNat (s : Bool) (e : BitVec 8) (m : BitVec 23) :
    (assemble32 s e m).toNat = s.toNat * 2 ^ 31 + e.toNat * 2 ^ 23 + m.toNat := by
  have h := toNat_eq_fields .fp32 (assemble32 s e m)
  rwa [signOf_assemble32, expbOf_assemble32, manOf_assemble32] at h

/-- A BF16 pattern over sixteen zeros is an FP32 pattern with its sign, its exponent and its mantissa moved up (R70). -/
theorem bits_shiftLeft_bf16 (p : Pattern .bf16) :
    p.setWidth 32 <<< 16 = assemble32 (signOf .bf16 p) (expbOf .bf16 p) (manOf .bf16 p <<< 16) := by
  have hp : p.toNat < 2 ^ 16 := p.isLt
  have hfields : p.toNat = (signOf .bf16 p).toNat * 2 ^ 15 + (expbOf .bf16 p).toNat * 2 ^ 7 + (manOf .bf16 p).toNat :=
    toNat_eq_fields .bf16 p
  have hman : (manOf .bf16 p <<< 16).toNat = (manOf .bf16 p).toNat * 2 ^ 16 :=
    man_shiftLeft_toNat (man_toNat_lt .bf16 p) rfl
  apply BitVec.eq_of_toNat_eq
  rw [assemble32_toNat, hman, BitVec.toNat_shiftLeft, bits_toNat, Nat.shiftLeft_eq]
  omega

/-- Widening from BF16 keeps the class: the exponent field is the same one and the mantissa is zero or not with it. -/
theorem classify_widen_bf16 (e : BitVec 8) {m : BitVec 23} (hm : m.toNat < 2 ^ 7) :
    classify .fp32 e (m <<< 16) = classify .bf16 e m := by
  have hzero : m <<< 16 = 0#23 ↔ m = 0#23 := by
    rw [BitVec.toNat_eq, BitVec.toNat_eq, man_shiftLeft_toNat hm rfl]
    simp
  by_cases hm0 : m = 0#23
  · simp [classify, hm0]
  · simp [classify, hm0, hzero]

/-- Widening from BF16 keeps the value: same bias, and sixteen more mantissa bits (R65, R69). -/
theorem sameValue_valueOf_widen_bf16 (cls : Cls) (s : Bool) (e : BitVec 8) {m : BitVec 23} (hm : m.toNat < 2 ^ 7) :
    sameValue (valueOf .fp32 cls s e (m <<< 16)) (valueOf .bf16 cls s e m) = true := by
  have hman : (m <<< 16).toNat = m.toNat * 2 ^ 16 := man_shiftLeft_toNat hm rfl
  cases cls with
  | nan => rfl
  | infinity => exact sameValue_refl (.inf s)
  | zero => exact sameValue_refl (.zero s)
  | denormalized => exact sameValue_fin_of_scaled 16 hman rfl
  | normal =>
    refine sameValue_fin_of_scaled 16 ?_ ?_
    · simp only [hman, Fmt.mw]
      omega
    · simp only [debias, Fmt.bias_fp32, Fmt.bias_bf16, Fmt.mw]
      omega

/-- `FV32` of a BF16 pattern that is no NaN denotes its value (R70). -/
theorem sameValue_fv32_bf16 {p : Pattern .bf16} (h : (decompose .bf16 p).cls ≠ .nan) :
    sameValue (v32 (decompose .bf16 p).fv32) (decompose .bf16 p).fv = true := by
  have hm : (manOf .bf16 p).toNat < 2 ^ 7 := man_toNat_lt .bf16 p
  have hfv32 : (decompose .bf16 p).fv32 = p.setWidth 32 <<< 16 := by
    rw [decompose_fv32]
    cases hcls : (decompose .bf16 p).cls with
    | nan => exact absurd hcls h
    | normal => rfl
    | zero => rfl
    | infinity => rfl
    | denormalized => rfl
  rw [hfv32, bits_shiftLeft_bf16, v32_assemble32, classify_widen_bf16 _ hm, decompose_fv, decompose_cls]
  exact sameValue_valueOf_widen_bf16 _ _ _ hm

/-- A pattern whose exponent field is neither reserved one is Normal (R64). -/
theorem classify_eq_normal {fmt : Fmt} {e : BitVec 8} {m : BitVec 23} (hzero : e.toNat ≠ 0)
    (hones : e.toNat ≠ fmt.maxb) : classify fmt e m = .normal := by
  by_contra h
  exact ((classify_ne_normal_iff fmt e m).mp h).elim hzero hones

/-- The exponent field of a Normal pattern is not zero (R64). -/
theorem expb_ne_zero_of_normal {fmt : Fmt} {p : Pattern fmt} (h : (decompose fmt p).cls = .normal) :
    (expbOf fmt p).toNat ≠ 0 :=
  fun hzero => (classify_ne_normal_iff fmt _ (manOf fmt p)).mpr (.inl hzero) h

/-- An assembled FP32 pattern with exponent field `e` strictly between the reserved ones is a Normal (R65). -/
theorem v32_assemble32_normal (s : Bool) {e : Nat} (hzero : 0 < e) (hones : e < 255) (m : BitVec 23) :
    v32 (assemble32 s (BitVec.ofNat 8 e) m) = .fin s (2 ^ 23 + m.toNat) (e - 150) := by
  have he : (BitVec.ofNat 8 e).toNat = e := by rw [BitVec.toNat_ofNat]; omega
  have hcls : classify .fp32 (BitVec.ofNat 8 e) m = .normal :=
    classify_eq_normal (by omega) (by rw [Fmt.maxb_fp32]; omega)
  rw [v32_assemble32, hcls, valueOf, debias, he, Fmt.bias_fp32]
  congr 1
  simp only [Fmt.mw]
  omega

/-- `FV32` of a Normal FP16 pattern denotes its value: the bias grows by 112 and the mantissa by thirteen bits (R70). -/
theorem sameValue_fv32_fp16_normal {p : Pattern .fp16} (h : (decompose .fp16 p).cls = .normal) :
    sameValue (v32 (decompose .fp16 p).fv32) (decompose .fp16 p).fv = true := by
  have hman : (manOf .fp16 p <<< 13).toNat = (manOf .fp16 p).toNat * 2 ^ 13 :=
    man_shiftLeft_toNat (man_toNat_lt .fp16 p) rfl
  have hmax : (expbOf .fp16 p).toNat ≤ 31 := expbOf_le_maxb .fp16 p
  have hzero := expb_ne_zero_of_normal h
  rw [decompose_fv32, decompose_fv, h, fv32Of, v32_assemble32_normal _ (by omega) (by omega), valueOf, debias, hman,
    Fmt.bias_fp16]
  refine sameValue_fin_of_scaled 13 ?_ ?_
  · simp only [Fmt.mw]
    omega
  · simp only [Fmt.mw]
    omega

/-- `FV32` of a Denormalized FP16 pattern denotes its value: its highest 1, at position `j`, becomes the implicit bit
(R70). -/
theorem sameValue_fv32_fp16_denormalized {p : Pattern .fp16} (h : (decompose .fp16 p).cls = .denormalized) :
    sameValue (v32 (decompose .fp16 p).fv32) (decompose .fp16 p).fv = true := by
  have hlt : (manOf .fp16 p).toNat < 2 ^ 10 := man_toNat_lt .fp16 p
  have hbounds := highestOne_bounds (man_ne_zero_of_denormalized h) hlt
  rw [decompose_fv32, decompose_fv, h, fv32Of, fv32OfSubnormal16, valueOf]
  generalize (manOf .fp16 p).toNat = m at hlt hbounds ⊢
  generalize highestOne m 9 = j at hbounds ⊢
  obtain ⟨hlow, hhigh⟩ := hbounds
  have hj : j < 10 := (Nat.pow_lt_pow_iff_right (by decide)).mp (hlow.trans_lt hlt)
  have hscale : 2 ^ j * 2 ^ (23 - j) = 2 ^ 23 := by rw [← Nat.pow_add]; congr 1; omega
  have hman : (m - 2 ^ j) * 2 ^ (23 - j) < 2 ^ 23 := by
    rw [← hscale]
    exact Nat.mul_lt_mul_of_pos_right (by omega) (Nat.two_pow_pos _)
  rw [v32_assemble32_normal _ (by omega) (by omega), BitVec.toNat_ofNat, Nat.mod_eq_of_lt hman]
  refine sameValue_fin_of_scaled (23 - j) ?_ ?_
  · rw [← hscale, ← Nat.add_mul, Nat.add_sub_of_le hlow]
  · simp only [Fmt.bias_fp16, Fmt.mw]
    omega

/-- `FV32` of a pattern denotes its value (R70, R74 law 7). -/
theorem sameValue_fv32 (fmt : Fmt) (p : Pattern fmt) :
    sameValue (v32 (decompose fmt p).fv32) (decompose fmt p).fv = true := by
  by_cases hnan : (decompose fmt p).cls = .nan
  · exact sameValue_fv32_of_nan hnan
  · cases fmt with
    | fp32 =>
      rw [fv32_fp32 hnan]
      exact sameValue_refl _
    | bf16 => exact sameValue_fv32_bf16 hnan
    | fp16 =>
      cases hcls : (decompose .fp16 p).cls with
      | nan => exact absurd hcls hnan
      | normal => exact sameValue_fv32_fp16_normal hcls
      | denormalized => exact sameValue_fv32_fp16_denormalized hcls
      | zero =>
        rw [decompose_fv32, decompose_fv, hcls, fv32Of, v32_assemble32]
        exact sameValue_refl (.zero _)
      | infinity =>
        rw [decompose_fv32, decompose_fv, hcls, fv32Of, v32_assemble32]
        exact sameValue_refl (.inf _)

/-- Settles O52: the wire carries every field but `FV`, and `FV32` denotes it. -/
theorem hostReadsBackTheResponse : Obligations.HostReadsBackTheResponse := by
  unfold Obligations.HostReadsBackTheResponse
  intro w
  unfold transact
  cases h : responseTo w with
  | fault code => exact unpack_pack_fault code
  | ok r =>
    refine ⟨v32 r.fv32, unpack_pack_ok r, ?_⟩
    obtain ⟨fmt, p, loss, ovf, unf, rfl⟩ := isRecord_of_responseTo h
    exact sameValue_fv32 fmt p

end Sys2Proof.Machine

/-! PROOFS. The class of a pattern by its fields, one equivalence per class (40_decode.md R64 to R69). -/

namespace Sys2Proof

/-- The two reserved exponent fields differ (R11). -/
theorem Fmt.maxb_pos (f : Fmt) : 0 < f.maxb := by cases f <;> decide

namespace Machine

section
variable (fmt : Fmt) (e : BitVec 8) (m : BitVec 23)

theorem classify_eq_infinity_iff : classify fmt e m = .infinity ↔ e.toNat = fmt.maxb ∧ m = 0#23 := by
  unfold classify
  split_ifs <;> simp_all

theorem classify_eq_nan_iff : classify fmt e m = .nan ↔ e.toNat = fmt.maxb ∧ m ≠ 0#23 := by
  unfold classify
  split_ifs <;> simp_all

/-- The all-ones exponent field is not the field of zeros (R64). -/
theorem ne_zero_of_toNat_eq_maxb {fmt : Fmt} {e : BitVec 8} (h : e.toNat = fmt.maxb) : e ≠ 0#8 := by
  rintro rfl
  exact fmt.maxb_pos.ne h

theorem classify_eq_zero_iff : classify fmt e m = .zero ↔ e = 0#8 ∧ m = 0#23 := by
  have hzero : e.toNat = fmt.maxb → e ≠ 0#8 := ne_zero_of_toNat_eq_maxb
  unfold classify
  split_ifs <;> simp_all

theorem classify_eq_denormalized_iff : classify fmt e m = .denormalized ↔ e = 0#8 ∧ m ≠ 0#23 := by
  have hzero : e.toNat = fmt.maxb → e ≠ 0#8 := ne_zero_of_toNat_eq_maxb
  unfold classify
  split_ifs <;> simp_all

end

/-- A pattern is Normal exactly when its exponent field lies strictly between the reserved ones (R64, R65). -/
theorem decompose_cls_eq_normal_iff (fmt : Fmt) (p : Pattern fmt) :
    (decompose fmt p).cls = .normal
      ↔ 0 < (decompose fmt p).expb.toNat ∧ (decompose fmt p).expb.toNat < fmt.maxb := by
  have hmax := expbOf_le_maxb fmt p
  rw [decompose_cls, decompose_expb, ← not_iff_not, ← ne_eq, classify_ne_normal_iff]
  omega

/-- `FRAC` is zero exactly when `MAN` is (R64). -/
theorem frac_eq_zero_iff (fmt : Fmt) (r : Fields) : r.frac fmt = 0 ↔ r.man = 0 := by
  rw [Fields.frac, div_eq_zero_iff, or_iff_left (by positivity), Nat.cast_eq_zero]
  exact (BitVec.toNat_eq (y := 0#23)).symm

theorem implicitBit_iff (cls : Cls) : implicitBit cls = true ↔ cls = .normal := beq_iff_eq

/-- Settles O27, from the equivalence for each class. -/
theorem classesPartitionThePatterns : Obligations.ClassesPartitionThePatterns := by
  unfold Obligations.ClassesPartitionThePatterns
  intro fmt p r
  have hspecial : r.spc = true ↔ r.cls ≠ .normal := isSpecial_iff r.cls
  have hexpb : r.expb = 0 ↔ r.expb.toNat = 0 := BitVec.toNat_eq
  refine ⟨manOf_toNat fmt p, rfl, frac_nonneg fmt r, frac_lt_one fmt p, frac_eq_zero_iff fmt r,
    classify_eq_infinity_iff fmt _ _, classify_eq_nan_iff fmt _ _, classify_eq_zero_iff fmt _ _,
    classify_eq_denormalized_iff fmt _ _, decompose_cls_eq_normal_iff fmt p, implicitBit_iff _, ?_, ?_, ?_⟩
  · rw [show r.hid = !r.spc from implicitBit_eq_not_isSpecial r.cls, Bool.not_eq_true']
  · rw [hspecial, hexpb]
    exact classify_ne_normal_iff fmt _ _
  · rw [hspecial]
    cases r.cls <;> decide

end Machine

end Sys2Proof

/-! PROOFS. The magnitude of a finite pattern is a natural multiple of the smallest subnormal, and that multiple grows
strictly with the bits below the sign (40_decode.md R65, R69, R74 law 6). -/

namespace Sys2Proof.Machine

/-- The bits of a pattern below its sign bit, as a number (R12). -/
def bodyOf (fmt : Fmt) (p : Pattern fmt) : Nat := (expbOf fmt p).toNat * 2 ^ fmt.mw + (manOf fmt p).toNat

/-- The magnitude of the finite pattern whose bits below the sign are `n`, in units of the smallest subnormal: the
mantissa field where the exponent field is 0 (R69), else the significand moved up by `EXPB - 1` (R65). -/
def magnitude (fmt : Fmt) (n : Nat) : Nat :=
  if n / 2 ^ fmt.mw = 0 then n % 2 ^ fmt.mw else (2 ^ fmt.mw + n % 2 ^ fmt.mw) * 2 ^ (n / 2 ^ fmt.mw - 1)

/-- The smallest subnormal of a format, `2^(1 - BIAS - M)` (R69). -/
def leastSubnormal (fmt : Fmt) : Rat := 2 ^ (1 - (fmt.bias : Int) - fmt.mw)

theorem leastSubnormal_pos (fmt : Fmt) : 0 < leastSubnormal fmt := zpow_pos two_pos _

/-- A remainder below `b` over a multiple of `b` is read back, and so is the multiplier. -/
theorem div_mod_of_lt (q : Nat) {r b : Nat} (h : r < b) : (q * b + r) / b = q ∧ (q * b + r) % b = r :=
  ⟨by rw [Nat.add_comm, Nat.add_mul_div_right _ _ (Nat.zero_lt_of_lt h), Nat.div_eq_of_lt h, Nat.zero_add],
    Nat.mul_add_mod_of_lt h⟩

section
variable (fmt : Fmt) (p : Pattern fmt)

theorem toNat_eq_sign_add_body : p.toNat = (signOf fmt p).toNat * 2 ^ (fmt.pw - 1) + bodyOf fmt p := by
  rw [bodyOf, ← Nat.add_assoc]
  exact toNat_eq_fields fmt p

theorem bodyOf_div : bodyOf fmt p / 2 ^ fmt.mw = (expbOf fmt p).toNat :=
  (div_mod_of_lt _ (man_toNat_lt fmt p)).1

theorem bodyOf_mod : bodyOf fmt p % 2 ^ fmt.mw = (manOf fmt p).toNat :=
  (div_mod_of_lt _ (man_toNat_lt fmt p)).2

/-- The finite patterns are those whose bits below the sign stay under the all-ones exponent (R64). -/
theorem bodyOf_lt_iff : bodyOf fmt p < fmt.maxb * 2 ^ fmt.mw ↔ (expbOf fmt p).toNat ≠ fmt.maxb := by
  rw [← Nat.div_lt_iff_lt_mul (Nat.two_pow_pos _), bodyOf_div]
  have hmax := expbOf_le_maxb fmt p
  omega

end

/-- A magnitude stays below the next binade. -/
theorem magnitude_lt (fmt : Fmt) (n : Nat) : magnitude fmt n < 2 ^ fmt.mw * 2 ^ (n / 2 ^ fmt.mw) := by
  have hmod : n % 2 ^ fmt.mw < 2 ^ fmt.mw := Nat.mod_lt _ (Nat.two_pow_pos _)
  unfold magnitude
  split_ifs with h
  · simpa [h] using hmod
  · rw [← Nat.two_pow_pred_mul_two (Nat.pos_of_ne_zero h), Nat.mul_comm (2 ^ (_ - 1)), ← Nat.mul_assoc]
    exact Nat.mul_lt_mul_of_pos_right (by omega) (Nat.two_pow_pos _)

/-- A magnitude with a non-zero exponent field reaches its binade. -/
theorem le_magnitude {fmt : Fmt} {n : Nat} (h : n / 2 ^ fmt.mw ≠ 0) :
    2 ^ fmt.mw * 2 ^ (n / 2 ^ fmt.mw - 1) ≤ magnitude fmt n := by
  rw [magnitude, if_neg h]
  exact Nat.mul_le_mul_right _ (Nat.le_add_right _ _)

/-- The magnitude grows with the bits below the sign: inside a binade with the mantissa field, and from one binade to
the next because they do not overlap. -/
theorem magnitude_strictMono (fmt : Fmt) : StrictMono (magnitude fmt) := by
  intro a b hab
  rcases (Nat.div_le_div_right (c := 2 ^ fmt.mw) hab.le).eq_or_lt with heq | hlt
  · have hmod : a % 2 ^ fmt.mw < b % 2 ^ fmt.mw := by
      rw [← Nat.div_add_mod a (2 ^ fmt.mw), ← Nat.div_add_mod b (2 ^ fmt.mw), heq] at hab
      omega
    unfold magnitude
    rw [heq]
    split_ifs
    · exact hmod
    · exact Nat.mul_lt_mul_of_pos_right (by omega) (Nat.two_pow_pos _)
  · calc magnitude fmt a < 2 ^ fmt.mw * 2 ^ (a / 2 ^ fmt.mw) := magnitude_lt fmt a
      _ ≤ 2 ^ fmt.mw * 2 ^ (b / 2 ^ fmt.mw - 1) :=
        Nat.mul_le_mul_left _ (Nat.pow_le_pow_right two_pos (Nat.le_sub_one_of_lt hlt))
      _ ≤ magnitude fmt b := le_magnitude (Nat.ne_zero_of_lt hlt)

/-- An infinity or a NaN is no rational (R66, R67). -/
theorem toRat_fv_eq_none {fmt : Fmt} {p : Pattern fmt} (h : (expbOf fmt p).toNat = fmt.maxb) :
    (decompose fmt p).fv.toRat = none := by
  rw [decompose_fv, decompose_cls, classify, if_pos h]
  split_ifs <;> rfl

/-- A finite pattern denotes its sign times its magnitude times the smallest subnormal (R65, R68, R69). -/
theorem toRat_fv {fmt : Fmt} {p : Pattern fmt} (h : (expbOf fmt p).toNat ≠ fmt.maxb) :
    (decompose fmt p).fv.toRat =
      some ((signFactor (signOf fmt p) : Rat) * (magnitude fmt (bodyOf fmt p) : Rat) * leastSubnormal fmt) := by
  rw [decompose_fv, decompose_cls, classify, if_neg h, magnitude, bodyOf_div, bodyOf_mod, leastSubnormal]
  have hzero : expbOf fmt p = 0#8 ↔ (expbOf fmt p).toNat = 0 := BitVec.toNat_eq
  by_cases h0 : (expbOf fmt p).toNat = 0
  · rw [if_pos (hzero.mpr h0), if_pos h0]
    split_ifs with hman
    · simp [valueOf, Val.toRat, hman]
    · simp [valueOf, Val.toRat]
  · rw [if_neg (mt hzero.mp h0), if_neg h0, valueOf, Val.toRat]
    have hscale : (2 : Rat) ^ (debias fmt (expbOf fmt p) - fmt.mw)
        = 2 ^ ((expbOf fmt p).toNat - 1) * 2 ^ (1 - (fmt.bias : Int) - fmt.mw) := by
      rw [← zpow_natCast, ← zpow_add₀ two_ne_zero, debias]
      congr 1
      omega
    rw [hscale]
    push_cast
    congr 1
    ring

/-- `Inf(0)` lies above every finite value (R74 law 6). -/
theorem valueBelow_infinity {a : Val} {x : Rat} (h : a.toRat = some x) : valueBelow a (.inf false) := by
  simp [valueBelow, h, show (Val.inf false).toRat = none from rfl]

theorem valueBelow_of_lt {a b : Val} {x y : Rat} (ha : a.toRat = some x) (hb : b.toRat = some y) (hlt : x < y) :
    valueBelow a b := by
  simpa [valueBelow, ha, hb] using hlt

/-- The bits below the sign of a pattern that is no NaN reach at most the infinity's (R66, R67). -/
theorem bodyOf_le_of_ne_nan {fmt : Fmt} {p : Pattern fmt} (h : (decompose fmt p).cls ≠ .nan) :
    bodyOf fmt p ≤ fmt.maxb * 2 ^ fmt.mw := by
  rw [decompose_cls, Ne, classify_eq_nan_iff, not_and, not_not] at h
  by_cases hones : (expbOf fmt p).toNat = fmt.maxb
  · simp [bodyOf, hones, h hones]
  · exact ((bodyOf_lt_iff fmt p).mpr hones).le

/-- A pattern with the all-ones exponent that is no NaN denotes the infinity of its sign (R66). -/
theorem fv_eq_inf {fmt : Fmt} {p : Pattern fmt} (h : (decompose fmt p).cls ≠ .nan)
    (hones : (expbOf fmt p).toNat = fmt.maxb) : (decompose fmt p).fv = .inf (signOf fmt p) := by
  have hcls : (decompose fmt p).cls = .infinity := by
    rw [decompose_cls, Ne, classify_eq_nan_iff, not_and, not_not] at h
    exact (classify_eq_infinity_iff fmt _ _).mpr ⟨hones, h hones⟩
  rw [decompose_fv, hcls, valueOf]

/-- Settles O35: below the infinity the values are ordered as the magnitudes, and those as the patterns. -/
theorem valuesIncreaseWithPatterns : Obligations.ValuesIncreaseWithPatterns := by
  unfold Obligations.ValuesIncreaseWithPatterns
  intro fmt p q hp hq _ hqnan hlt
  rw [decompose_sgn] at hp hq
  have hbody : bodyOf fmt p < bodyOf fmt q := by
    simpa [toNat_eq_sign_add_body fmt p, toNat_eq_sign_add_body fmt q, hp, hq] using hlt
  have hpfin : (expbOf fmt p).toNat ≠ fmt.maxb :=
    (bodyOf_lt_iff fmt p).mp (hbody.trans_le (bodyOf_le_of_ne_nan hqnan))
  by_cases hqones : (expbOf fmt q).toNat = fmt.maxb
  · rw [fv_eq_inf hqnan hqones, hq]
    exact valueBelow_infinity (toRat_fv hpfin)
  · refine valueBelow_of_lt (toRat_fv hpfin) (toRat_fv hqones) ?_
    rw [hp, hq]
    refine mul_lt_mul_of_pos_right ?_ (leastSubnormal_pos fmt)
    simpa [signFactor] using magnitude_strictMono fmt hbody

end Sys2Proof.Machine

/-! PROOFS. A value that is no NaN has one pattern in a format (40_decode.md R70): its rational, or its being an
infinity, fixes the bits below the sign, and its sign fixes the sign bit, that of a zero included. -/

namespace Sys2Proof.Machine

/-- The sign a value carries; NaN carries none (R7). -/
def Val.sign : Val → Option Bool
  | .nan => none
  | .inf s => some s
  | .zero s => some s
  | .fin s _ _ => some s

/-- Scaling both sides by a power of two compares the rationals (R7). -/
theorem sameMagnitude_iff (n : Nat) (k : Int) (m : Nat) (j : Int) :
    sameMagnitude n k m j = true ↔ (n : Rat) * 2 ^ k = m * 2 ^ j := by
  have hsplit {i : Int} (hi : min k j ≤ i) : (2 : Rat) ^ i = 2 ^ (i - min k j).toNat * 2 ^ min k j := by
    rw [← zpow_natCast, ← zpow_add₀ two_ne_zero]
    congr 1
    omega
  have hunit : (2 : Rat) ^ min k j ≠ 0 := zpow_ne_zero _ two_ne_zero
  rw [hsplit (min_le_left k j), hsplit (min_le_right k j), ← mul_assoc, ← mul_assoc, mul_left_inj' hunit,
    sameMagnitude, beq_iff_eq]
  exact_mod_cast Iff.rfl

/-- Two terms of one value have the same sign and the same rational (R7). -/
theorem sign_toRat_eq_of_sameValue {a b : Val} (h : sameValue a b = true) : a.sign = b.sign ∧ a.toRat = b.toRat := by
  cases a <;> cases b <;> simp_all [sameValue, sameMagnitude_iff, Val.sign, Val.toRat, mul_assoc]

/-- Changing both signs keeps two terms of one value so (R7). -/
theorem sameValue_negate (a b : Val) : sameValue a.negate b.negate = sameValue a b := by
  have hnot (s t : Bool) : ((!s) == (!t)) = (s == t) := by cases s <;> cases t <;> rfl
  cases a <;> cases b <;> simp [sameValue, Val.negate, hnot]

/-- A pattern that is no NaN has a value with its sign, a NaN has one without (R65 to R69). -/
theorem sign_fv (fmt : Fmt) (p : Pattern fmt) :
    (decompose fmt p).fv.sign = if (decompose fmt p).cls = .nan then none else some (signOf fmt p) := by
  rw [decompose_fv]
  cases (decompose fmt p).cls <;> rfl

/-- The two bits-below-the-sign numbers of one rational, or of no rational, are equal. -/
theorem bodyOf_eq_of_toRat_eq {fmt : Fmt} {p q : Pattern fmt} (hp : (decompose fmt p).cls ≠ .nan)
    (hq : (decompose fmt q).cls ≠ .nan) (hsign : signOf fmt p = signOf fmt q)
    (hrat : (decompose fmt p).fv.toRat = (decompose fmt q).fv.toRat) : bodyOf fmt p = bodyOf fmt q := by
  by_cases hpfin : bodyOf fmt p < fmt.maxb * 2 ^ fmt.mw <;> by_cases hqfin : bodyOf fmt q < fmt.maxb * 2 ^ fmt.mw
  · rw [toRat_fv ((bodyOf_lt_iff fmt p).mp hpfin), toRat_fv ((bodyOf_lt_iff fmt q).mp hqfin), hsign, Option.some_inj,
      mul_left_inj' (leastSubnormal_pos fmt).ne', mul_right_inj' (by cases signOf fmt q <;> simp [signFactor]),
      Nat.cast_inj] at hrat
    exact (magnitude_strictMono fmt).injective hrat
  · rw [bodyOf_lt_iff] at hpfin
    rw [bodyOf_lt_iff, not_not] at hqfin
    simp [toRat_fv hpfin, toRat_fv_eq_none hqfin] at hrat
  · rw [bodyOf_lt_iff, not_not] at hpfin
    rw [bodyOf_lt_iff] at hqfin
    simp [toRat_fv hqfin, toRat_fv_eq_none hpfin] at hrat
  · have hpinf := bodyOf_le_of_ne_nan hp
    have hqinf := bodyOf_le_of_ne_nan hq
    omega

/-- Two patterns of one value that is no NaN are one pattern (R70). -/
theorem pattern_eq_of_value_eq {fmt : Fmt} {p q : Pattern fmt} (hq : (decompose fmt q).cls ≠ .nan)
    (hsign : (decompose fmt p).fv.sign = (decompose fmt q).fv.sign)
    (hrat : (decompose fmt p).fv.toRat = (decompose fmt q).fv.toRat) : p = q := by
  rw [sign_fv, sign_fv, if_neg hq] at hsign
  split_ifs at hsign with hp
  have hsgn : signOf fmt p = signOf fmt q := Option.some_inj.mp hsign
  apply BitVec.eq_of_toNat_eq
  rw [toNat_eq_sign_add_body fmt p, toNat_eq_sign_add_body fmt q, hsgn, bodyOf_eq_of_toRat_eq hp hq hsgn hrat]

/-- Whatever FP32 word denotes the value of a pattern that is no NaN is its `FV32` (R70). -/
theorem eq_fv32_of_sameValue {fmt : Fmt} {p : Pattern fmt} (h : (decompose fmt p).cls ≠ .nan) {w : Word}
    (hw : sameValue (v32 w) (decompose fmt p).fv = true) : w = (decompose fmt p).fv32 := by
  obtain ⟨hsign, hrat⟩ := sign_toRat_eq_of_sameValue hw
  obtain ⟨hsign', hrat'⟩ := sign_toRat_eq_of_sameValue (sameValue_fv32 fmt p)
  have hnan : (decompose .fp32 (decompose fmt p).fv32).cls ≠ .nan := by
    intro hnan
    rw [v32, sign_fv, if_pos hnan, sign_fv, if_neg h] at hsign'
    cases hsign'
  exact pattern_eq_of_value_eq hnan (hsign.trans hsign'.symm) (hrat.trans hrat'.symm)

/-! The rows of R70's bit table. -/

/-- `FV32` of every NaN is `NAN32` (R70). -/
theorem fv32_of_nan {fmt : Fmt} {p : Pattern fmt} (h : (decompose fmt p).cls = .nan) :
    (decompose fmt p).fv32 = nan32 := by
  rw [decompose_fv32, h]
  cases fmt <;> rfl

/-- `FV32` of a BF16 pattern that is no NaN is the pattern over sixteen zeros (R70). -/
theorem fv32_bf16 {p : Pattern .bf16} (h : (decompose .bf16 p).cls ≠ .nan) :
    (decompose .bf16 p).fv32 = (p ++ 0#16 : BitVec 32) := by
  have hshift : (decompose .bf16 p).fv32 = p.setWidth 32 <<< 16 := by
    rw [decompose_fv32]
    cases hcls : (decompose .bf16 p).cls with
    | nan => exact absurd hcls h
    | normal => rfl
    | zero => rfl
    | infinity => rfl
    | denormalized => rfl
  have hp : p.toNat < 2 ^ 16 := p.isLt
  apply BitVec.eq_of_toNat_eq
  rw [hshift, BitVec.toNat_append, BitVec.toNat_shiftLeft, bits_toNat, Nat.shiftLeft_eq]
  simp
  omega

/-- A ten-bit mantissa field moved up by thirteen bits is that field over thirteen zeros (R70). -/
theorem shiftLeft_man_fp16 (p : Pattern .fp16) :
    manOf .fp16 p <<< 13 = ((manOf .fp16 p).extractLsb' 0 10 ++ 0#13 : BitVec 23) := by
  have hm : (manOf .fp16 p).toNat < 2 ^ 10 := man_toNat_lt .fp16 p
  apply BitVec.eq_of_toNat_eq
  rw [man_shiftLeft_toNat hm rfl, BitVec.toNat_append, BitVec.extractLsb'_toNat]
  simp [Nat.shiftLeft_eq]
  omega

/-- A mantissa put together from ten bits and thirteen zeros makes the pattern of four parts of R70's table. -/
theorem assemble32_append (s : Bool) (e : BitVec 8) (a : BitVec 10) :
    assemble32 s e (a ++ 0#13 : BitVec 23) = (BitVec.ofBool s ++ e ++ a ++ 0#13 : BitVec 32) := by
  have hassoc := BitVec.append_assoc (x₁ := BitVec.ofBool s ++ e) (x₂ := a) (x₃ := 0#13)
  rw [BitVec.cast_eq] at hassoc
  exact hassoc.symm

/-- The position of the highest 1 is the only `j` with `2^j ≤ m < 2^(j+1)` (R70). -/
theorem highestOne_eq {m j top : Nat} (hlow : 2 ^ j ≤ m) (hhigh : m < 2 ^ (j + 1)) (h : m < 2 ^ (top + 1)) :
    highestOne m top = j := by
  have hpos : 0 < m := (Nat.two_pow_pos j).trans_le hlow
  obtain ⟨hlow', hhigh'⟩ := highestOne_bounds hpos.ne' h
  have h1 : j < highestOne m top + 1 := (Nat.pow_lt_pow_iff_right (by decide)).mp (hlow.trans_lt hhigh')
  have h2 : highestOne m top < j + 1 := (Nat.pow_lt_pow_iff_right (by decide)).mp (hlow'.trans_lt hhigh)
  omega

/-- Settles O33: `FV32` denotes `FV`, a value has one pattern, and the rows of the table by class. -/
theorem fv32IsTheOnePatternOfTheValue : Obligations.Fv32IsTheOnePatternOfTheValue := by
  unfold Obligations.Fv32IsTheOnePatternOfTheValue
  intro fmt p r
  refine ⟨sameValue_fv32 fmt p, fun h => ?_, fun h w hw => eq_fv32_of_sameValue h hw, ?_, ?_, ?_, ?_, ?_, ?_⟩
  · rw [show r.fv32 = nan32 from fv32_of_nan h]
    decide
  · rintro h rfl
    exact (fv32_fp32 h).trans (BitVec.setWidth_eq p).symm
  · rintro h rfl
    rw [show r.bits.extractLsb' 0 16 = p by rw [decompose_bits, bits_extractLsb']; exact BitVec.extractLsb'_eq_self]
    exact fv32_bf16 h
  · rintro rfl h
    rw [decompose_fv32, h]
    rfl
  · rintro rfl h
    rw [decompose_fv32, h]
    rfl
  · rintro rfl h
    rw [decompose_fv32, h, fv32Of, shiftLeft_man_fp16, assemble32_append]
    rfl
  · rintro j rfl h hlow hhigh
    have hman : (manOf .fp16 p).toNat < 2 ^ 10 := man_toNat_lt .fp16 p
    have hj : highestOne (manOf .fp16 p).toNat 9 = j := highestOne_eq hlow hhigh hman
    rw [decompose_fv32, h, fv32Of, fv32OfSubnormal16, hj]
    rfl

end Sys2Proof.Machine

/-! PROOFS. The three `DEC` commands (40_decode.md R60, R71 to R73): the operand check, and the record of the pattern by
division and remainder. -/

namespace Sys2Proof

/-- The bias by R11's formula, over the integers. -/
theorem Fmt.bias_cast (f : Fmt) : (f.bias : Int) = 2 ^ (f.ew - 1) - 1 := by cases f <;> rfl

namespace Machine

/-- The upper half of an operand is zero exactly when the operand is a 16-bit number (R60). -/
theorem upperHalf_eq_zero_iff (src : Word) : src.extractLsb' 16 16 = 0#16 ↔ src.toNat < 2 ^ 16 := by
  have hsrc := src.isLt
  rw [BitVec.toNat_eq, BitVec.extractLsb'_toNat, Nat.shiftRight_eq_div_pow]
  simp
  omega

/-- Settles O19: the check reads the upper half, and the pattern is what is left of it. -/
theorem operandIsTheRightAlignedPattern : Obligations.OperandIsTheRightAlignedPattern := by
  unfold Obligations.OperandIsTheRightAlignedPattern
  intro src
  refine ⟨operand_fp32 src, fun hfits => ?_, fun hwide => ?_⟩
  · have hzero := (upperHalf_eq_zero_iff src).mpr hfits
    rw [BitVec.ofNat_toNat]
    exact ⟨operand_fp16_ok hzero, operand_bf16_ok hzero⟩
  · have hzero := mt (upperHalf_eq_zero_iff src).mp (Nat.not_lt.mpr hwide)
    exact ⟨operand_fp16_error hzero, operand_bf16_error hzero⟩

/-- The record of a pattern holds what R61 to R69 say of the pattern as a number. -/
theorem describes_decompose (fmt : Fmt) (p : Pattern fmt) : Describes fmt p (decompose fmt p) := by
  have hexpv : (decompose fmt p).expv.toInt = ((expbOf fmt p).toNat : Int) - fmt.bias := expv_toInt fmt p
  have hexpb : expbOf fmt p = 0#8 ↔ (expbOf fmt p).toNat = 0 := BitVec.toNat_eq
  have hman : manOf fmt p = 0#23 ↔ (manOf fmt p).toNat = 0 := BitVec.toNat_eq
  have hsgn : signOf fmt p = decide (2 ^ (fmt.pw - 1) ≤ p.toNat) :=
    (BitVec.msb_eq_getLsbD_last p).symm.trans (BitVec.msb_eq_decide p)
  have hfv {c : Cls} (h : (decompose fmt p).cls = c) :
      (decompose fmt p).fv = valueOf fmt c (signOf fmt p) (expbOf fmt p) (manOf fmt p) := by
    rw [decompose_fv, h]
  exact
    { bits := bits_toNat fmt p
      sgn := hsgn
      expb := expbOf_toNat fmt p
      man := manOf_toNat fmt p
      expv := by rw [hexpv, fmt.bias_cast]; rfl
      infinity := by rw [decompose_cls, classify_eq_infinity_iff, hman]; rfl
      nan := by rw [decompose_cls, classify_eq_nan_iff, ne_eq, hman]; rfl
      zero := by rw [decompose_cls, classify_eq_zero_iff, hexpb, hman]; rfl
      denormalized := by rw [decompose_cls, classify_eq_denormalized_iff, ne_eq, hexpb, hman]; rfl
      hid := implicitBit_iff _
      spc := isSpecial_iff _
      fvInfinity := hfv
      fvNaN := hfv
      fvZero := hfv
      fvDenormalized := fun h => by rw [hfv h, valueOf, fmt.bias_cast]; rfl
      fvNormal := fun h => by rw [hfv h, valueOf, expv_toInt]; rfl }

/-- A command whose response is a record completes with it and changes nothing else. -/
theorem exec_of_responseOf {i : Instr} {r : Fields} (h : responseOf i = .ok r) (s : State) :
    exec i s = .next { cmdPort := s.cmdPort, rspPort := s.rspPort ++ [.ok r] } := by
  rw [exec_eq_respond, h]
  rfl

/-- A `DEC` whose operand passes the check answers with the record of its pattern (R71 to R73). -/
theorem decResponse_of_operand {fmt : Fmt} {src : Word} {p : Pattern fmt} (h : operand fmt src = .ok p) :
    decResponse fmt src = .ok (decompose fmt p) := by
  simp only [decResponse, h]

/-- An FP32 word is a NaN by its two fields (R67, R81). -/
theorem decompose_fp32_cls_eq_nan_iff (w : Word) :
    (decompose .fp32 w).cls = .nan ↔ w.extractLsb' 23 8 = 0xFF#8 ∧ w.extractLsb' 0 23 ≠ 0#23 := by
  have hexpb : expbOf .fp32 w = w.extractLsb' 23 8 := BitVec.setWidth_eq _
  have hman : manOf .fp32 w = w.extractLsb' 0 23 := BitVec.setWidth_eq _
  rw [decompose_cls, classify_eq_nan_iff, hexpb, hman, BitVec.toNat_eq (y := 0xFF#8)]
  rfl

/-- Settles O20: the FP32 check is vacuous and the record is that of the operand. -/
theorem decFp32Result : Obligations.DecFp32Result := by
  unfold Obligations.DecFp32Result
  intro src s
  have hresp : responseOf (.decFp32 src) = .ok (decompose .fp32 src) := decResponse_of_operand (operand_fp32 src)
  refine ⟨_, exec_of_responseOf hresp s, BitVec.setWidth_eq src, describes_decompose .fp32 src, ?_, rfl, rfl, rfl⟩
  simp only [← decompose_fp32_cls_eq_nan_iff]
  split_ifs with hnan
  · rw [fv32_of_nan hnan]
    decide
  · exact fv32_fp32 hnan

/-- The lower half of an operand with a zero upper half is the whole of it (R60). -/
theorem setWidth_lowerHalf {src : Word} (h : src.extractLsb' 16 16 = 0#16) :
    (src.extractLsb' 0 16).setWidth 32 = src := by
  have hfits := (upperHalf_eq_zero_iff src).mp h
  apply BitVec.eq_of_toNat_eq
  simp
  omega

/-- Settles O21: the operand is the pattern, and `FV32` denotes the value as for every pattern. -/
theorem decFp16Result : Obligations.DecFp16Result := by
  unfold Obligations.DecFp16Result
  intro src s h
  have hresp : responseOf (.decFp16 src) = .ok (decompose .fp16 (src.extractLsb' 0 16)) :=
    decResponse_of_operand (operand_fp16_ok h)
  refine ⟨_, exec_of_responseOf hresp s, setWidth_lowerHalf h, describes_decompose .fp16 _, sameValue_fv32 .fp16 _,
    fun hnan => ?_, rfl, rfl, rfl⟩
  rw [fv32_of_nan hnan]
  decide

/-- Settles O22: the operand is the pattern, and `FV32` is the pattern over sixteen zeros. -/
theorem decBf16Result : Obligations.DecBf16Result := by
  unfold Obligations.DecBf16Result
  intro src s h
  have hresp : responseOf (.decBf16 src) = .ok (decompose .bf16 (src.extractLsb' 0 16)) :=
    decResponse_of_operand (operand_bf16_ok h)
  refine ⟨_, exec_of_responseOf hresp s, setWidth_lowerHalf h, describes_decompose .bf16 _, ?_, rfl, rfl, rfl⟩
  split_ifs with hnan
  · rw [fv32_of_nan hnan]
    decide
  · exact fv32_bf16 hnan

end Machine

end Sys2Proof

/-! PROOFS. The value by class (40_decode.md R65 to R69) as a rational: `FRAC` and `MANV` are the significand divided by
`2^MW`, so the exponent of the rational is the one the class uses, `MW` above that of the `Fin` term. -/

namespace Sys2Proof.Machine

/-- A significand over `2^MW` at an exponent is the significand at the exponent less `MW` (R65, R69). -/
theorem div_mul_zpow (n : Rat) (k : Nat) (e : Int) : n / 2 ^ k * 2 ^ e = n * 2 ^ (e - k) := by
  rw [zpow_sub₀ two_ne_zero, zpow_natCast]
  ring

/-- The record of a pattern by its class, once the class is known. -/
theorem decompose_of_cls {fmt : Fmt} {p : Pattern fmt} {c : Cls} (h : (decompose fmt p).cls = c) :
    (decompose fmt p).spc = isSpecial c ∧ (decompose fmt p).hid = implicitBit c
      ∧ (decompose fmt p).fv = valueOf fmt c (signOf fmt p) (expbOf fmt p) (manOf fmt p) := by
  subst h
  exact ⟨rfl, rfl, rfl⟩

/-- With the implicit bit clear `MANV` is `FRAC` (R17). -/
theorem manv_of_not_hid {fmt : Fmt} {r : Fields} (h : r.hid = false) : r.manv fmt = r.frac fmt := by
  simp [Fields.manv, h]

/-- With the implicit bit set `MANV` is `1 + FRAC` (R17). -/
theorem manv_of_hid {fmt : Fmt} {r : Fields} (h : r.hid = true) : r.manv fmt = 1 + r.frac fmt := by
  simp [Fields.manv, h]

theorem signFactor_ne_zero (s : Bool) : (signFactor s : Rat) ≠ 0 := by cases s <;> simp [signFactor]

/-- Settles O29: `2^MW * (1 + FRAC)` is the significand of the term, which is not zero. -/
theorem normalValue : Obligations.NormalValue := by
  unfold Obligations.NormalValue
  intro fmt p r hzero hones
  have hcls : r.cls = .normal := (decompose_cls_eq_normal_iff fmt p).mpr ⟨hzero, hones⟩
  obtain ⟨hspc, hhid, hval⟩ := decompose_of_cls hcls
  have hfv : r.fv = .fin r.sgn (2 ^ fmt.mw + r.man.toNat) (r.expv.toInt - fmt.mw) := by
    rw [expv_toInt]
    exact hval
  have hrat : r.fv.toRat = some ((r.sgnv : Rat) * r.manv fmt * (2 : Rat) ^ r.expv.toInt) := by
    have hmanv : r.manv fmt = ((2 ^ fmt.mw + r.man.toNat : Nat) : Rat) / 2 ^ fmt.mw := by
      rw [manv_of_hid hhid, Fields.frac, Nat.cast_add, add_div, Nat.cast_pow, Nat.cast_ofNat,
        div_self (by positivity)]
    rw [hfv, Val.toRat, hmanv, mul_assoc, mul_assoc, div_mul_zpow]
    rfl
  refine ⟨hcls, hhid, hspc, manv_of_hid hhid, hfv, hrat, ?_, ?_, ?_⟩
  · have hmanv : r.manv fmt ≠ 0 := by
      rw [manv_of_hid hhid]
      have := frac_nonneg fmt r
      positivity
    rw [hrat, Ne, Option.some_inj]
    exact mul_ne_zero (mul_ne_zero (signFactor_ne_zero _) hmanv) (zpow_ne_zero _ two_ne_zero)
  · rw [hfv]; rfl
  · rw [hfv]; rfl

/-- The rational of a positive term (R7). -/
theorem toRat_of_eq_fin {v : Val} {n : Nat} {k : Int} (h : v = .fin false n k) :
    v.toRat = some ((n : Rat) * 2 ^ k) := by
  simp [h, Val.toRat, signFactor]

/-- Settles O30: `2^MW * FRAC` is the significand of the term. -/
theorem denormalizedValue : Obligations.DenormalizedValue := by
  unfold Obligations.DenormalizedValue
  have hone {v : Val} {k : Int} (h : v = .fin false 1 k) : v.toRat = some (2 ^ k) := by
    rw [toRat_of_eq_fin h, Nat.cast_one, one_mul]
  refine ⟨?_, hone (by decide), hone (by decide), hone (by decide)⟩
  intro fmt p r hexpb hman
  have hcls : r.cls = .denormalized := (classify_eq_denormalized_iff fmt _ _).mpr ⟨hexpb, hman⟩
  obtain ⟨hspc, hhid, hfv⟩ := decompose_of_cls hcls
  refine ⟨hcls, hhid, hspc, manv_of_not_hid hhid, hfv, ?_⟩
  rw [hfv, valueOf, Val.toRat, Fields.frac, mul_assoc, mul_assoc, div_mul_zpow]
  rfl

/-- A format has one infinity of each sign (R66). -/
theorem pattern_eq_of_infinity {fmt : Fmt} {p q : Pattern fmt} (hp : (decompose fmt p).cls = .infinity)
    (hq : (decompose fmt q).cls = .infinity) (hsign : signOf fmt p = signOf fmt q) : p = q := by
  obtain ⟨-, -, hpfv⟩ := decompose_of_cls hp
  obtain ⟨-, -, hqfv⟩ := decompose_of_cls hq
  have hfv : (decompose fmt p).fv = (decompose fmt q).fv := by rw [hpfv, hqfv, valueOf, valueOf, hsign]
  exact pattern_eq_of_value_eq (by rw [hq]; decide) (by rw [hfv]) (by rw [hfv])

/-- The infinities of a format are the two it has one of each sign (R66). -/
theorem cls_eq_infinity_iff {fmt : Fmt} {pos neg : Pattern fmt}
    (hpos : (decompose fmt pos).cls = .infinity ∧ signOf fmt pos = false)
    (hneg : (decompose fmt neg).cls = .infinity ∧ signOf fmt neg = true) (p : Pattern fmt) :
    (decompose fmt p).cls = .infinity ↔ p = pos ∨ p = neg := by
  constructor
  · intro h
    cases hsgn : signOf fmt p with
    | false => exact .inl (pattern_eq_of_infinity h hpos.1 (hsgn.trans hpos.2.symm))
    | true => exact .inr (pattern_eq_of_infinity h hneg.1 (hsgn.trans hneg.2.symm))
  · rintro (rfl | rfl)
    · exact hpos.1
    · exact hneg.1

/-- A pattern whose value is a zero has the zero's sign bit (R68). -/
theorem signOf_of_fv_eq_zero {fmt : Fmt} {p : Pattern fmt} {s : Bool} (h : (decompose fmt p).fv = .zero s) :
    signOf fmt p = s := by
  have hsign := sign_fv fmt p
  rw [h] at hsign
  split_ifs at hsign
  · cases hsign
  · exact (Option.some_inj.mp hsign).symm

/-- The two zeros of a format differ in their sign bit, hence in `BITS`, and in `FV32` because that keeps the sign
(R68). -/
theorem zeros_differ {fmt : Fmt} {p q : Pattern fmt} (hp : (decompose fmt p).fv = .zero false)
    (hq : (decompose fmt q).fv = .zero true) :
    (decompose fmt p).sgn ≠ (decompose fmt q).sgn ∧ (decompose fmt p).bits ≠ (decompose fmt q).bits
      ∧ (decompose fmt p).fv32 ≠ (decompose fmt q).fv32 := by
  have hsgn : signOf fmt p ≠ signOf fmt q := by
    rw [signOf_of_fv_eq_zero hp, signOf_of_fv_eq_zero hq]
    decide
  refine ⟨hsgn, fun hbits => hsgn ?_, fun hfv32 => ?_⟩
  · have hnat := congrArg BitVec.toNat hbits
    rw [decompose_bits, decompose_bits, bits_toNat, bits_toNat] at hnat
    rw [BitVec.eq_of_toNat_eq hnat]
  · obtain ⟨hpsign, -⟩ := sign_toRat_eq_of_sameValue (sameValue_fv32 fmt p)
    obtain ⟨hqsign, -⟩ := sign_toRat_eq_of_sameValue (sameValue_fv32 fmt q)
    rw [hfv32, hqsign, hp, hq] at hpsign
    simp [Val.sign] at hpsign

/-- Settles O31: the equivalences for the three classes, the two infinities of each format, and the two zeros. -/
theorem specialValues : Obligations.SpecialValues := by
  unfold Obligations.SpecialValues
  refine ⟨fun fmt p => ⟨fun hexpb hman => ?_, fun hexpb hman => ?_, fun hexpb hman => ?_⟩,
    cls_eq_infinity_iff (by decide) (by decide), cls_eq_infinity_iff (by decide) (by decide),
    cls_eq_infinity_iff (by decide) (by decide), fun fmt p q hp hq => ?_⟩
  · have hcls : (decompose fmt p).cls = .infinity := (classify_eq_infinity_iff fmt _ _).mpr ⟨hexpb, hman⟩
    obtain ⟨hspc, hhid, hfv⟩ := decompose_of_cls hcls
    exact ⟨hcls, hspc, hhid, hfv⟩
  · have hcls : (decompose fmt p).cls = .nan := (classify_eq_nan_iff fmt _ _).mpr ⟨hexpb, hman⟩
    obtain ⟨hspc, hhid, hfv⟩ := decompose_of_cls hcls
    exact ⟨hcls, hspc, hhid, hfv, rfl, manOf_toNat fmt p⟩
  · have hcls : (decompose fmt p).cls = .zero := (classify_eq_zero_iff fmt _ _).mpr ⟨hexpb, hman⟩
    obtain ⟨hspc, hhid, hfv⟩ := decompose_of_cls hcls
    exact ⟨hcls, hspc, hhid, hfv, (manv_of_not_hid hhid).trans ((frac_eq_zero_iff fmt _).mpr hman)⟩
  · obtain ⟨hsgn, hbits, hfv32⟩ := zeros_differ hp hq
    exact ⟨hsgn, hbits, hfv32, by rw [hp, hq]; rfl⟩

end Sys2Proof.Machine

/-! PROOFS. Flipping the sign bit (40_decode.md R74 law 5): it changes `SGN` and no other field, and since a value
has one FP32 pattern, it flips the sign bit of `FV32` too. -/

namespace Sys2Proof.Machine

/-- The pattern with its sign bit flipped (R74 law 5). -/
def flipSign (fmt : Fmt) (p : Pattern fmt) : Pattern fmt := p ^^^ BitVec.twoPow fmt.pw (fmt.pw - 1)

section
variable (fmt : Fmt) (p : Pattern fmt)

/-- Below the sign bit nothing is flipped. -/
theorem getLsbD_flipSign (i : Nat) : (flipSign fmt p).getLsbD i = (p.getLsbD i ^^ decide (i = fmt.pw - 1)) := by
  rw [flipSign, BitVec.getLsbD_xor, BitVec.getLsbD_twoPow, decide_eq_true (Nat.sub_one_lt fmt.pw_pos.ne'),
    Bool.true_and]
  simp [eq_comm]

theorem signOf_flipSign : signOf fmt (flipSign fmt p) = !signOf fmt p := by
  rw [signOf, getLsbD_flipSign, signOf]
  simp

/-- A slice that ends below the sign bit is not flipped. -/
theorem extractLsb'_flipSign {start len : Nat} (h : start + len ≤ fmt.pw - 1) :
    (flipSign fmt p).extractLsb' start len = p.extractLsb' start len := by
  ext i hi
  rw [BitVec.getElem_extractLsb', BitVec.getElem_extractLsb', getLsbD_flipSign, decide_eq_false (by omega),
    Bool.xor_false]

theorem expbOf_flipSign : expbOf fmt (flipSign fmt p) = expbOf fmt p := by
  rw [expbOf, extractLsb'_flipSign fmt p (by rw [fmt.pw_sub_one, Nat.add_comm]), expbOf]

theorem manOf_flipSign : manOf fmt (flipSign fmt p) = manOf fmt p := by
  rw [manOf, extractLsb'_flipSign fmt p (by rw [fmt.pw_sub_one]; omega), manOf]

theorem cls_flipSign : (decompose fmt (flipSign fmt p)).cls = (decompose fmt p).cls := by
  rw [decompose_cls, decompose_cls, expbOf_flipSign, manOf_flipSign]

/-- The value changes its sign (R74 law 5). -/
theorem fv_flipSign : (decompose fmt (flipSign fmt p)).fv = (decompose fmt p).fv.negate := by
  rw [decompose_fv, decompose_fv, cls_flipSign, signOf_flipSign, expbOf_flipSign, manOf_flipSign]
  cases (decompose fmt p).cls <;> rfl

theorem bits_flipSign :
    (decompose fmt (flipSign fmt p)).bits = (decompose fmt p).bits ^^^ BitVec.twoPow 32 (fmt.pw - 1) := by
  ext i hi
  simp [getLsbD_flipSign]

/-- `FV32` of the flipped pattern: the word that denotes the negated value, unless it is a NaN (R70, R74 law 5). -/
theorem fv32_flipSign : (decompose fmt (flipSign fmt p)).fv32 =
    if (decompose fmt p).cls = .nan then (decompose fmt p).fv32 else (decompose fmt p).fv32 ^^^ 0x80000000#32 := by
  have hcls := cls_flipSign fmt p
  split_ifs with hnan
  · rw [fv32_of_nan hnan, fv32_of_nan (hcls.trans hnan)]
  · refine (eq_fv32_of_sameValue (hcls ▸ hnan) ?_).symm
    have hflip : v32 ((decompose fmt p).fv32 ^^^ 0x80000000#32) = (v32 (decompose fmt p).fv32).negate :=
      fv_flipSign .fp32 _
    rw [hflip, fv_flipSign, sameValue_negate]
    exact sameValue_fv32 fmt p

end

/-- Settles O34, field by field. -/
theorem signSymmetry : Obligations.SignSymmetry := by
  unfold Obligations.SignSymmetry
  intro fmt p r q
  have hcls : q.cls = r.cls := cls_flipSign fmt p
  refine ⟨signOf_flipSign fmt p, fv_flipSign fmt p, expbOf_flipSign fmt p, ?_, manOf_flipSign fmt p, ?_, ?_, hcls,
    bits_flipSign fmt p, fv32_flipSign fmt p⟩
  · exact congrArg (fun e => BitVec.ofInt 9 (debias fmt e)) (expbOf_flipSign fmt p)
  · exact congrArg implicitBit hcls
  · exact congrArg isSpecial hcls

end Sys2Proof.Machine

/-! PROOFS. The extreme values of a format (40_decode.md R74 law 8), from the order of the magnitudes. -/

namespace Sys2Proof.Machine

/-- Only a finite pattern denotes a rational, and the sign does not count in its absolute value (R65 to R69). -/
theorem abs_of_toRat_fv {fmt : Fmt} {p : Pattern fmt} {x : Rat} (h : (decompose fmt p).fv.toRat = some x) :
    (expbOf fmt p).toNat ≠ fmt.maxb ∧ |x| = magnitude fmt (bodyOf fmt p) * leastSubnormal fmt := by
  have hfin : (expbOf fmt p).toNat ≠ fmt.maxb := by
    intro hones
    rw [toRat_fv_eq_none hones] at h
    cases h
  have habs : |(signFactor (signOf fmt p) : Rat)| = 1 := by cases signOf fmt p <;> simp [signFactor]
  rw [toRat_fv hfin, Option.some_inj] at h
  rw [← h, abs_mul, abs_mul, habs, one_mul, Nat.abs_cast, abs_of_pos (leastSubnormal_pos fmt)]
  exact ⟨hfin, rfl⟩

/-- The pattern just below `Inf(0)` (R74 law 8). -/
def largestFinite (fmt : Fmt) : Pattern fmt := BitVec.ofNat fmt.pw (fmt.maxb * 2 ^ fmt.mw - 1)

theorem bodyOf_largestFinite (fmt : Fmt) : bodyOf fmt (largestFinite fmt) = fmt.maxb * 2 ^ fmt.mw - 1 := by
  cases fmt <;> decide

theorem signOf_largestFinite (fmt : Fmt) : signOf fmt (largestFinite fmt) = false := by
  cases fmt <;> decide

/-- No finite value of a format exceeds the largest in magnitude (R74 law 8). -/
theorem abs_le_largestFinite {fmt : Fmt} {p : Pattern fmt} {x y : Rat} (hx : (decompose fmt p).fv.toRat = some x)
    (hy : (decompose fmt (largestFinite fmt)).fv.toRat = some y) : |x| ≤ y := by
  obtain ⟨hfin, hxabs⟩ := abs_of_toRat_fv hx
  obtain ⟨hyfin, -⟩ := abs_of_toRat_fv hy
  rw [toRat_fv hyfin, signOf_largestFinite, Option.some_inj] at hy
  have hbody : bodyOf fmt p ≤ bodyOf fmt (largestFinite fmt) := by
    rw [bodyOf_largestFinite]
    exact Nat.le_sub_one_of_lt ((bodyOf_lt_iff fmt p).mpr hfin)
  have hmag := (magnitude_strictMono fmt).monotone hbody
  rw [hxabs, ← hy]
  refine mul_le_mul_of_nonneg_right ?_ (leastSubnormal_pos fmt).le
  simpa [signFactor] using hmag

/-- No Normal of a format lies below `2^(1-BIAS)` in magnitude (R74 law 8): a magnitude is at least the bits below the
sign, and those at least `2^MW`. -/
theorem le_abs_of_normal {fmt : Fmt} {p : Pattern fmt} {x : Rat} (hcls : (decompose fmt p).cls = .normal)
    (hx : (decompose fmt p).fv.toRat = some x) : (2 : Rat) ^ (1 - (fmt.bias : Int)) ≤ |x| := by
  obtain ⟨-, hxabs⟩ := abs_of_toRat_fv hx
  have hmag : 2 ^ fmt.mw ≤ magnitude fmt (bodyOf fmt p) :=
    calc 2 ^ fmt.mw ≤ (expbOf fmt p).toNat * 2 ^ fmt.mw :=
          Nat.le_mul_of_pos_left _ (Nat.pos_of_ne_zero (expb_ne_zero_of_normal hcls))
      _ ≤ bodyOf fmt p := Nat.le_add_right _ _
      _ ≤ magnitude fmt (bodyOf fmt p) := (magnitude_strictMono fmt).le_apply
  calc (2 : Rat) ^ (1 - (fmt.bias : Int))
      = ((2 ^ fmt.mw : Nat) : Rat) * leastSubnormal fmt := by
        rw [leastSubnormal, Nat.cast_pow, Nat.cast_ofNat, ← zpow_natCast, ← zpow_add₀ two_ne_zero]
        congr 1
        omega
    _ ≤ magnitude fmt (bodyOf fmt p) * leastSubnormal fmt :=
        mul_le_mul_of_nonneg_right (by exact_mod_cast hmag) (leastSubnormal_pos fmt).le
    _ = |x| := hxabs.symm

/-- The largest significand at an exponent, by R74 law 8's formula. -/
theorem toRat_largest {v : Val} (m : Nat) {e : Int} (h : v = .fin false (2 ^ (m + 1) - 1) (e - m)) :
    v.toRat = some ((2 - 2 ^ (-(m : Int))) * 2 ^ e) := by
  have hcast : ((2 ^ (m + 1) - 1 : Nat) : Rat) = (2 - 2 ^ (-(m : Int))) * 2 ^ m := by
    rw [Nat.cast_sub Nat.one_le_two_pow, sub_mul, zpow_neg, zpow_natCast, inv_mul_cancel₀ (by positivity), pow_succ]
    push_cast
    ring
  rw [toRat_of_eq_fin h, hcast, mul_assoc, ← zpow_natCast, ← zpow_add₀ two_ne_zero]
  simp

/-- The smallest significand at an exponent. -/
theorem toRat_smallest {v : Val} (m : Nat) {e : Int} (h : v = .fin false (2 ^ m) (e - m)) :
    v.toRat = some (2 ^ e) := by
  rw [toRat_of_eq_fin h, Nat.cast_pow, Nat.cast_ofNat, ← zpow_natCast, ← zpow_add₀ two_ne_zero]
  simp

/-- Settles O36: closed patterns by their terms, and the two bounds by the order of the magnitudes. -/
theorem extremeValues : Obligations.ExtremeValues := by
  unfold Obligations.ExtremeValues
  have h16 : (decompose .fp16 0x7BFF#16).fv.toRat = some ((2 - 2 ^ (-10 : Int)) * 2 ^ (15 : Int)) :=
    toRat_largest 10 (by decide)
  refine ⟨toRat_largest 23 (by decide), h16, ?_, toRat_largest 7 (by decide), toRat_smallest 23 (by decide),
    toRat_smallest 10 (by decide), toRat_smallest 7 (by decide), by decide, by decide, by decide,
    fun fmt p x y => abs_le_largestFinite, fun fmt p x => le_abs_of_normal⟩
  rw [h16]
  norm_num

end Sys2Proof.Machine

/-! PROOFS. How many patterns fall in each class (40_decode.md R71 to R73): the class is a condition on the exponent
field and one on the mantissa field, every pair of fields occurs under both signs, so the count is twice a product. -/

namespace Sys2Proof.Machine

/-- Numbers below `a * b` are pairs of a quotient below `a` and a remainder below `b`. -/
theorem card_filter_range_mul (a : Nat) {b : Nat} (hb : 0 < b) (P Q : Nat → Prop) [DecidablePred P]
    [DecidablePred Q] :
    ((Finset.range (a * b)).filter fun n => P (n / b) ∧ Q (n % b)).card
      = ((Finset.range a).filter P).card * ((Finset.range b).filter Q).card := by
  rw [← Finset.card_product, ← Finset.filter_product]
  refine Finset.card_bij' (fun n _ => (n / b, n % b)) (fun x _ => x.1 * b + x.2) ?_ ?_ ?_ ?_
  · intro n hn
    simpa [Nat.mod_lt n hb, Nat.div_lt_iff_lt_mul hb] using hn
  · rintro ⟨q, r⟩ hx
    simp only [Finset.mem_filter, Finset.mem_product, Finset.mem_range] at hx ⊢
    obtain ⟨⟨hq, hr⟩, hP, hQ⟩ := hx
    obtain ⟨hdiv, hmod⟩ := div_mod_of_lt q hr
    rw [hdiv, hmod, ← Nat.div_lt_iff_lt_mul hb, hdiv]
    exact ⟨hq, hP, hQ⟩
  · intro n _
    exact Nat.div_add_mod' n b
  · rintro ⟨q, r⟩ hx
    simp only [Finset.mem_filter, Finset.mem_product, Finset.mem_range] at hx
    obtain ⟨⟨-, hr⟩, -⟩ := hx
    obtain ⟨hdiv, hmod⟩ := div_mod_of_lt q hr
    exact Prod.ext hdiv hmod

/-- The count of R71 to R73: patterns of a format in a class. -/
def countCls (fmt : Fmt) (c : Cls) : Nat :=
  ((Finset.range (2 ^ fmt.pw)).filter fun n => (decompose fmt (BitVec.ofNat fmt.pw n)).cls = c).card

/-- A class that is a condition `E` on the exponent field and a condition `M` on the mantissa field is taken by twice
as many patterns as there are pairs of such fields. -/
theorem countCls_eq (fmt : Fmt) (c : Cls) (E M : Nat → Prop) [DecidablePred E] [DecidablePred M]
    (h : ∀ p : Pattern fmt, (decompose fmt p).cls = c ↔ E (expbOf fmt p).toNat ∧ M (manOf fmt p).toNat) :
    countCls fmt c = 2 * ((Finset.range (2 ^ fmt.ew)).filter E).card * ((Finset.range (2 ^ fmt.mw)).filter M).card := by
  have hcls : ∀ n ∈ Finset.range (2 ^ fmt.pw), (decompose fmt (BitVec.ofNat fmt.pw n)).cls = c
      ↔ E (n / 2 ^ fmt.mw % 2 ^ fmt.ew) ∧ M (n % 2 ^ fmt.mw) := by
    intro n hn
    rw [h, expbOf_toNat, manOf_toNat, BitVec.toNat_ofNat, Nat.mod_eq_of_lt (Finset.mem_range.mp hn)]
  have hexp := card_filter_range_mul 2 (Nat.two_pow_pos fmt.ew) (fun _ => True) E
  have hpat := card_filter_range_mul (2 * 2 ^ fmt.ew) (Nat.two_pow_pos fmt.mw) (fun e => E (e % 2 ^ fmt.ew)) M
  simp only [true_and, Finset.filter_true, Finset.card_range] at hexp
  rw [countCls, Finset.filter_congr hcls, show fmt.pw = 1 + fmt.ew + fmt.mw from fmt.pw_eq, Nat.pow_add, Nat.pow_add,
    Nat.pow_one, hpat, hexp]

theorem card_filter_eq {n k : Nat} (h : k < n) : ((Finset.range n).filter (· = k)).card = 1 := by
  rw [Finset.filter_eq', if_pos (Finset.mem_range.mpr h), Finset.card_singleton]

theorem card_filter_ne {n k : Nat} (h : k < n) : ((Finset.range n).filter (· ≠ k)).card = n - 1 := by
  rw [Finset.filter_ne', Finset.card_erase_of_mem (Finset.mem_range.mpr h), Finset.card_range]

section
variable (fmt : Fmt)

/-- The all-ones exponent is an exponent field (R11). -/
theorem maxb_lt : fmt.maxb < 2 ^ fmt.ew := Nat.sub_one_lt (Nat.two_pow_pos _).ne'

theorem countCls_zero : countCls fmt .zero = 2 := by
  rw [countCls_eq fmt .zero (· = 0) (· = 0), card_filter_eq (Nat.two_pow_pos _), card_filter_eq (Nat.two_pow_pos _)]
  exact (describes_decompose fmt · |>.zero)

theorem countCls_infinity : countCls fmt .infinity = 2 := by
  rw [countCls_eq fmt .infinity (· = fmt.maxb) (· = 0), card_filter_eq (maxb_lt fmt),
    card_filter_eq (Nat.two_pow_pos _)]
  exact (describes_decompose fmt · |>.infinity)

theorem countCls_nan : countCls fmt .nan = 2 * (2 ^ fmt.mw - 1) := by
  rw [countCls_eq fmt .nan (· = fmt.maxb) (· ≠ 0), card_filter_eq (maxb_lt fmt), card_filter_ne (Nat.two_pow_pos _)]
  exact (describes_decompose fmt · |>.nan)

theorem countCls_denormalized : countCls fmt .denormalized = 2 * (2 ^ fmt.mw - 1) := by
  rw [countCls_eq fmt .denormalized (· = 0) (· ≠ 0), card_filter_eq (Nat.two_pow_pos _),
    card_filter_ne (Nat.two_pow_pos _)]
  exact (describes_decompose fmt · |>.denormalized)

theorem countCls_normal : countCls fmt .normal = 2 * (fmt.maxb - 1) * 2 ^ fmt.mw := by
  have hexp : (Finset.range (2 ^ fmt.ew)).filter (fun e => 0 < e ∧ e < fmt.maxb) = Finset.Ioo 0 fmt.maxb := by
    have hmaxb := maxb_lt fmt
    ext e
    simp only [Finset.mem_filter, Finset.mem_range, Finset.mem_Ioo]
    omega
  rw [countCls_eq fmt .normal (fun e => 0 < e ∧ e < fmt.maxb) (fun _ => True), hexp, Nat.card_Ioo, Finset.filter_true,
    Finset.card_range, Nat.sub_zero]
  exact fun p => (decompose_cls_eq_normal_iff fmt p).trans (iff_of_eq (and_true _)).symm

end

/-- Settles O28: the count of each class at the numbers of each profile. -/
theorem patternCountsPerClass : Obligations.PatternCountsPerClass := by
  unfold Obligations.PatternCountsPerClass
  exact ⟨⟨countCls_zero .fp32, countCls_infinity .fp32, countCls_nan .fp32, countCls_denormalized .fp32,
      countCls_normal .fp32⟩,
    ⟨countCls_zero .fp16, countCls_infinity .fp16, countCls_nan .fp16, countCls_denormalized .fp16,
      countCls_normal .fp16⟩,
    ⟨countCls_zero .bf16, countCls_infinity .bf16, countCls_nan .bf16, countCls_denormalized .bf16,
      countCls_normal .bf16⟩⟩

end Sys2Proof.Machine

/-! PROOFS. The source word of a `CVT` (41_convert.md R81): a sign bit over 31 bits, or three fields. The predicates
name its class as an FP32 pattern. -/

namespace Sys2Proof.Machine

theorem expbOf_fp32 (s : Word) : expbOf .fp32 s = srcExp s := BitVec.setWidth_eq _

theorem manOf_fp32 (s : Word) : manOf .fp32 s = srcMan s := BitVec.setWidth_eq _

theorem srcMan_toNat (s : Word) : (srcMan s).toNat = s.toNat % 2 ^ 23 := by
  rw [srcMan, BitVec.extractLsb'_toNat, Nat.shiftRight_zero]

/-- The all-ones exponent field of a source word, as a number and as a field (R81). -/
theorem srcExp_eq_ones_iff (s : Word) : srcExp s = 0xFF#8 ↔ (srcExp s).toNat = 255 := BitVec.toNat_eq

theorem srcExp_eq_zero_iff (s : Word) : srcExp s = 0#8 ↔ (srcExp s).toNat = 0 := BitVec.toNat_eq

/-- The exponent and the mantissa field are the 31 bits below the sign (R81). -/
theorem body_eq_iff (s : Word) (e : BitVec 8) (m : BitVec 23) :
    s.extractLsb' 0 31 = (e ++ m : BitVec 31) ↔ srcExp s = e ∧ srcMan s = m := by
  have hbody : (srcExp s ++ srcMan s : BitVec 31) = s.extractLsb' 0 31 :=
    BitVec.extractLsb'_append_extractLsb'_eq_extractLsb' rfl
  rw [← hbody]
  refine ⟨fun h => ⟨?_, ?_⟩, fun ⟨he, hm⟩ => by rw [he, hm]⟩
  · simpa only [BitVec.extractLsb'_append_eq_left] using congrArg (·.extractLsb' 23 8) h
  · simpa only [BitVec.extractLsb'_append_eq_right] using congrArg (·.extractLsb' 0 23) h

/-- A word is one of two once the 31 bits below its sign are known. -/
theorem body_eq_iff_signed (s : Word) (c : BitVec 31) :
    s.extractLsb' 0 31 = c ↔ s = (0#1 ++ c : BitVec 32) ∨ s = (1#1 ++ c : BitVec 32) := by
  have hs : (s.extractLsb' 31 1 ++ s.extractLsb' 0 31 : BitVec 32) = s :=
    (BitVec.extractLsb'_append_extractLsb'_eq_extractLsb' rfl).trans BitVec.extractLsb'_eq_self
  constructor
  · rintro rfl
    rcases BitVec.eq_zero_or_eq_one (s.extractLsb' 31 1) with hsign | hsign
    · exact .inl (by rw [← hsign, hs])
    · exact .inr (by rw [← hsign, hs])
  · rintro (rfl | rfl)
    · exact BitVec.extractLsb'_append_eq_right
    · exact BitVec.extractLsb'_append_eq_right

section
variable (s : Word)

theorem isNaN32_iff_fields : isNaN32 s = true ↔ srcExp s = 0xFF#8 ∧ srcMan s ≠ 0#23 := by simp [isNaN32]

theorem isSub32_iff_fields : isSub32 s = true ↔ srcExp s = 0x00#8 ∧ srcMan s ≠ 0#23 := by simp [isSub32]

theorem isInf32_iff_fields : isInf32 s = true ↔ srcExp s = 0xFF#8 ∧ srcMan s = 0#23 := by
  rw [← body_eq_iff, isInf32, beq_iff_eq]
  rfl

theorem isZero32_iff_fields : isZero32 s = true ↔ srcExp s = 0x00#8 ∧ srcMan s = 0#23 := by
  rw [← body_eq_iff, isZero32, beq_iff_eq]
  rfl

theorem isNaN32_iff_cls : isNaN32 s = true ↔ (decompose .fp32 s).cls = .nan := by
  rw [isNaN32_iff_fields, decompose_fp32_cls_eq_nan_iff]
  rfl

theorem isInf32_iff_cls : isInf32 s = true ↔ (decompose .fp32 s).cls = .infinity := by
  rw [isInf32_iff_fields, srcExp_eq_ones_iff, decompose_cls, classify_eq_infinity_iff, expbOf_fp32, manOf_fp32]
  rfl

theorem isZero32_iff_cls : isZero32 s = true ↔ (decompose .fp32 s).cls = .zero := by
  rw [isZero32_iff_fields, decompose_cls, classify_eq_zero_iff, expbOf_fp32, manOf_fp32]

theorem isSub32_iff_cls : isSub32 s = true ↔ (decompose .fp32 s).cls = .denormalized := by
  rw [isSub32_iff_fields, decompose_cls, classify_eq_denormalized_iff, expbOf_fp32, manOf_fp32]

theorem isInf32_iff : isInf32 s = true ↔ s = 0x7F800000#32 ∨ s = 0xFF800000#32 := by
  rw [isInf32, beq_iff_eq, body_eq_iff_signed]
  rfl

theorem isZero32_iff : isZero32 s = true ↔ s = 0x00000000#32 ∨ s = 0x80000000#32 := by
  rw [isZero32, beq_iff_eq, body_eq_iff_signed]
  rfl

end

/-- Settles O37: each predicate by the two fields, and each class by the same two. -/
theorem sourcePredicatesMatchTheClasses : Obligations.SourcePredicatesMatchTheClasses := by
  unfold Obligations.SourcePredicatesMatchTheClasses
  exact fun s => ⟨isNaN32_iff_cls s, isInf32_iff_cls s, isZero32_iff_cls s, isSub32_iff_cls s, isNaN32_iff_fields s,
    isInf32_iff s, isZero32_iff s, isSub32_iff_fields s⟩

end Sys2Proof.Machine

/-! PROOFS. Decoding again what a conversion gave (41_convert.md R91): `BITS` is the encoded pattern with zeros above
it, so it passes the operand check and is decomposed to the same record. -/

namespace Sys2Proof.Machine

/-- The `BITS` of a pattern are a well-formed `DEC` operand for it (R60, R15). -/
theorem operand_setWidth (fmt : Fmt) (p : Pattern fmt) : operand fmt (p.setWidth 32) = .ok p := by
  have hpattern : (p.setWidth 32).setWidth fmt.pw = p :=
    (BitVec.setWidth_setWidth_of_le p fmt.pw_le).trans (BitVec.setWidth_eq p)
  have hcheck : ¬(fmt.pw = 16 ∧ (p.setWidth 32).extractLsb' 16 16 ≠ 0#16) := by
    rintro ⟨hpw, hwide⟩
    refine hwide ((upperHalf_eq_zero_iff _).mpr ?_)
    rw [bits_toNat, ← hpw]
    exact p.isLt
  rw [operand, if_neg hcheck, hpattern]

/-- The `CVT` command of a format responds with the conversion (R80). -/
theorem responseOf_convertAlias (fmt : Fmt) (src : Word) :
    responseOf (convertAlias fmt src) = .ok (convert fmt src) := by
  cases fmt <;> rfl

theorem responseOf_decodeAlias (fmt : Fmt) (bits : Word) :
    responseOf (decodeAlias fmt bits) = decResponse fmt bits := by
  cases fmt <;> rfl

/-- Settles O47: the operand is the pattern the record was read from, and `DEC` clears the flags. -/
theorem redecodingIsAFixedPoint : Obligations.RedecodingIsAFixedPoint := by
  unfold Obligations.RedecodingIsAFixedPoint
  intro fmt src s s'
  refine ⟨convert fmt src, exec_of_responseOf (responseOf_convertAlias fmt src) s, exec_of_responseOf ?_ s'⟩
  rw [responseOf_decodeAlias, convert_bits, decResponse_of_operand (operand_setWidth fmt _)]
  rfl

end Sys2Proof.Machine

/-! PROOFS. The value of a source word by its class (40_decode.md R65 to R69 at FP32), and the class and value of the
patterns the encoders put together (10_state.md R12, R13). -/

namespace Sys2Proof.Machine

/-- The class and value of a pattern from its three fields. -/
theorem decompose_of_fields {fmt : Fmt} {p : Pattern fmt} {s : Bool} {e : BitVec 8} {m : BitVec 23} {c : Cls}
    (hs : signOf fmt p = s) (he : expbOf fmt p = e) (hm : manOf fmt p = m) (hc : classify fmt e m = c) :
    (decompose fmt p).cls = c ∧ (decompose fmt p).fv = valueOf fmt c s e m := by
  subst hs he hm hc
  exact ⟨rfl, rfl⟩

/-- The value of a source word of a known class. -/
theorem v32_of_cls {s : Word} {c : Cls} (h : (decompose .fp32 s).cls = c) :
    v32 s = valueOf .fp32 c (srcSign s) (srcExp s) (srcMan s) := by
  obtain ⟨-, -, hfv⟩ := decompose_of_cls h
  rw [v32, hfv, expbOf_fp32, manOf_fp32]
  rfl

section
variable {s : Word}

theorem v32_of_isNaN32 (h : isNaN32 s = true) : v32 s = .nan := v32_of_cls ((isNaN32_iff_cls s).mp h)

theorem v32_of_isInf32 (h : isInf32 s = true) : v32 s = .inf (srcSign s) := v32_of_cls ((isInf32_iff_cls s).mp h)

theorem v32_of_isZero32 (h : isZero32 s = true) : v32 s = .zero (srcSign s) := v32_of_cls ((isZero32_iff_cls s).mp h)

theorem v32_of_isSub32 (h : isSub32 s = true) : v32 s = .fin (srcSign s) (srcMan s).toNat (-149) :=
  v32_of_cls ((isSub32_iff_cls s).mp h)

/-- A source word with an exponent field between the reserved ones is a Normal (R65). -/
theorem v32_of_normal (hzero : 0 < (srcExp s).toNat) (hones : (srcExp s).toNat < 255) :
    v32 s = .fin (srcSign s) (2 ^ 23 + (srcMan s).toNat) ((srcExp s).toNat - 150) := by
  have hcls : (decompose .fp32 s).cls = .normal := by
    rw [decompose_cls_eq_normal_iff, decompose_expb, expbOf_fp32]
    exact ⟨hzero, hones⟩
  rw [v32_of_cls hcls, valueOf, debias, Fmt.bias_fp32]
  congr 1
  simp only [Fmt.mw]
  omega

end

/-- Every source word is in one of the five classes (R64, R81). -/
theorem source_cases (s : Word) : isNaN32 s = true ∨ isInf32 s = true ∨ isZero32 s = true ∨ isSub32 s = true
    ∨ (0 < (srcExp s).toNat ∧ (srcExp s).toNat < 255) := by
  rw [isNaN32_iff_cls, isInf32_iff_cls, isZero32_iff_cls, isSub32_iff_cls, ← expbOf_fp32, ← decompose_expb,
    ← Fmt.maxb_fp32, ← decompose_cls_eq_normal_iff]
  cases (decompose .fp32 s).cls <;> simp

/-! FP16 patterns. -/

theorem signOf_assemble16 (s : Bool) (e : BitVec 5) (m : BitVec 10) : signOf .fp16 (assemble16 s e m) = s := by
  simp (disch := decide) only [signOf, assemble16, getLsbD_append_of_le]
  simp

theorem expbOf_assemble16 (s : Bool) (e : BitVec 5) (m : BitVec 10) :
    expbOf .fp16 (assemble16 s e m) = e.setWidth 8 := by
  simp (disch := decide) only [expbOf, assemble16, BitVec.extractLsb'_append_eq_of_le,
    BitVec.extractLsb'_append_eq_of_add_le]
  simp

theorem manOf_assemble16 (s : Bool) (e : BitVec 5) (m : BitVec 10) :
    manOf .fp16 (assemble16 s e m) = m.setWidth 23 := by
  simp (disch := decide) only [manOf, assemble16, BitVec.extractLsb'_append_eq_of_add_le]
  simp

theorem decompose_zero16 (s : Bool) :
    (decompose .fp16 (assemble16 s 0 0)).cls = .zero ∧ (decompose .fp16 (assemble16 s 0 0)).fv = .zero s :=
  decompose_of_fields (signOf_assemble16 s 0 0) (expbOf_assemble16 s 0 0) (manOf_assemble16 s 0 0) rfl

theorem decompose_inf16 (s : Bool) :
    (decompose .fp16 (assemble16 s 31 0)).cls = .infinity ∧ (decompose .fp16 (assemble16 s 31 0)).fv = .inf s :=
  decompose_of_fields (signOf_assemble16 s 31 0) (expbOf_assemble16 s 31 0) (manOf_assemble16 s 31 0) rfl

theorem decompose_normal16 (s : Bool) {e : Nat} (hzero : 0 < e) (hones : e < 31) (m : BitVec 10) :
    (decompose .fp16 (assemble16 s (BitVec.ofNat 5 e) m)).cls = .normal
      ∧ (decompose .fp16 (assemble16 s (BitVec.ofNat 5 e) m)).fv = .fin s (2 ^ 10 + m.toNat) (e - 25) := by
  have he : ((BitVec.ofNat 5 e).setWidth 8).toNat = e := by
    rw [BitVec.toNat_setWidth, BitVec.toNat_ofNat]
    omega
  have hm : (m.setWidth 23).toNat = m.toNat := BitVec.toNat_setWidth_of_le (by decide)
  have hcls : classify .fp16 ((BitVec.ofNat 5 e).setWidth 8) (m.setWidth 23) = .normal :=
    classify_eq_normal (by omega) (by rw [Fmt.maxb_fp16]; omega)
  obtain ⟨hc, hfv⟩ :=
    decompose_of_fields (signOf_assemble16 s _ m) (expbOf_assemble16 s _ m) (manOf_assemble16 s _ m) hcls
  refine ⟨hc, hfv.trans ?_⟩
  rw [valueOf, debias, he, hm, Fmt.bias_fp16]
  congr 1
  simp only [Fmt.mw]
  omega

/-! BF16 patterns. -/

theorem signOf_assembleBF (s : Bool) (e : BitVec 8) (m : BitVec 7) : signOf .bf16 (assembleBF s e m) = s := by
  simp (disch := decide) only [signOf, assembleBF, getLsbD_append_of_le]
  simp

theorem expbOf_assembleBF (s : Bool) (e : BitVec 8) (m : BitVec 7) : expbOf .bf16 (assembleBF s e m) = e := by
  simp (disch := decide) only [expbOf, assembleBF, BitVec.extractLsb'_append_eq_of_le,
    BitVec.extractLsb'_append_eq_of_add_le]
  simp

theorem manOf_assembleBF (s : Bool) (e : BitVec 8) (m : BitVec 7) :
    manOf .bf16 (assembleBF s e m) = m.setWidth 23 := by
  simp (disch := decide) only [manOf, assembleBF, BitVec.extractLsb'_append_eq_of_add_le]
  simp

/-- The class and value of an assembled BF16 pattern, once its fields are classified. -/
theorem decompose_assembleBF (s : Bool) (e : BitVec 8) (m : BitVec 7) {c : Cls}
    (h : classify .bf16 e (m.setWidth 23) = c) :
    (decompose .bf16 (assembleBF s e m)).cls = c
      ∧ (decompose .bf16 (assembleBF s e m)).fv = valueOf .bf16 c s e (m.setWidth 23) :=
  decompose_of_fields (signOf_assembleBF s e m) (expbOf_assembleBF s e m) (manOf_assembleBF s e m) h

theorem decompose_zeroBF (s : Bool) :
    (decompose .bf16 (assembleBF s 0 0)).cls = .zero ∧ (decompose .bf16 (assembleBF s 0 0)).fv = .zero s :=
  decompose_assembleBF s 0 0 rfl

theorem decompose_infBF (s : Bool) :
    (decompose .bf16 (infBF s)).cls = .infinity ∧ (decompose .bf16 (infBF s)).fv = .inf s :=
  decompose_assembleBF s 0xFF 0 rfl

theorem decompose_subnormalBF (s : Bool) {m : BitVec 7} (h : m ≠ 0#7) :
    (decompose .bf16 (assembleBF s 0 m)).cls = .denormalized
      ∧ (decompose .bf16 (assembleBF s 0 m)).fv = .fin s m.toNat (-133) := by
  have hm : (m.setWidth 23).toNat = m.toNat := BitVec.toNat_setWidth_of_le (by decide)
  have hne : m.setWidth 23 ≠ 0#23 := by
    rw [Ne, BitVec.toNat_eq, hm]
    exact fun hzero => h (BitVec.eq_of_toNat_eq hzero)
  obtain ⟨hc, hfv⟩ := decompose_assembleBF s 0 m ((classify_eq_denormalized_iff .bf16 _ _).mpr ⟨rfl, hne⟩)
  refine ⟨hc, hfv.trans ?_⟩
  rw [valueOf, hm]
  rfl

theorem decompose_normalBF (s : Bool) {e : BitVec 8} (hzero : 0 < e.toNat) (hones : e.toNat < 255) (m : BitVec 7) :
    (decompose .bf16 (assembleBF s e m)).cls = .normal
      ∧ (decompose .bf16 (assembleBF s e m)).fv = .fin s (2 ^ 7 + m.toNat) (e.toNat - 134) := by
  have hm : (m.setWidth 23).toNat = m.toNat := BitVec.toNat_setWidth_of_le (by decide)
  obtain ⟨hc, hfv⟩ := decompose_assembleBF s e m (classify_eq_normal hzero.ne' hones.ne)
  refine ⟨hc, hfv.trans ?_⟩
  rw [valueOf, debias, hm, Fmt.bias_bf16]
  congr 1
  simp only [Fmt.mw]
  omega

end Sys2Proof.Machine

/-! PROOFS. The encoders by the rows of their tables (41_convert.md R82 to R88): which pattern each class of source
word, and for FP16 each range of its exponent field, is encoded to. -/

namespace Sys2Proof.Machine

section
variable {s : Word}

theorem isNaN32_eq_false (h : (srcExp s).toNat ≠ 255) : isNaN32 s = false := by
  rw [Bool.eq_false_iff, Ne, isNaN32_iff_fields, srcExp_eq_ones_iff]
  exact fun hnan => h hnan.1

theorem isInf32_eq_false (h : (srcExp s).toNat ≠ 255) : isInf32 s = false := by
  rw [Bool.eq_false_iff, Ne, isInf32_iff_fields, srcExp_eq_ones_iff]
  exact fun hinf => h hinf.1

theorem isZero32_eq_false (h : srcExp s ≠ 0#8 ∨ srcMan s ≠ 0#23) : isZero32 s = false := by
  rw [Bool.eq_false_iff, Ne, isZero32_iff_fields]
  exact not_and_or.mpr h

/-- An infinity is no NaN: its mantissa field is zero (R81). -/
theorem isNaN32_of_isInf32 (h : isInf32 s = true) : isNaN32 s = false := by
  rw [Bool.eq_false_iff, Ne, isNaN32_iff_fields]
  exact fun hnan => hnan.2 ((isInf32_iff_fields s).mp h).2

/-- An infinity is no zero: its exponent field is not zero (R81). -/
theorem isZero32_of_isInf32 (h : isInf32 s = true) : isZero32 s = false :=
  isZero32_eq_false (.inl (by rw [((isInf32_iff_fields s).mp h).1]; decide))

/-- The exponent field of a zero or a subnormal (R81). -/
theorem srcExp_of_isZero32 (h : isZero32 s = true) : (srcExp s).toNat = 0 :=
  (srcExp_eq_zero_iff s).mp ((isZero32_iff_fields s).mp h).1

theorem srcExp_of_isSub32 (h : isSub32 s = true) : (srcExp s).toNat = 0 :=
  (srcExp_eq_zero_iff s).mp ((isSub32_iff_fields s).mp h).1

/-! `Rebias16` and `Enc16`. -/

theorem rebias16_of_nan (h : isNaN32 s = true) : rebias16 s = assemble16 (srcSign s) 31 0x200 := by
  obtain ⟨he, hm⟩ := (isNaN32_iff_fields s).mp h
  simp [rebias16, he, hm]

theorem rebias16_of_inf (h : isInf32 s = true) : rebias16 s = assemble16 (srcSign s) 31 0 := by
  obtain ⟨he, hm⟩ := (isInf32_iff_fields s).mp h
  simp [rebias16, he, hm]

/-- `Rebias16` of a word with an exponent field between the reserved ones compares that field with 112 and 142 (R83). -/
theorem rebias16_of_normal (hzero : 0 < (srcExp s).toNat) (hones : (srcExp s).toNat < 255) :
    rebias16 s =
      if 142 < (srcExp s).toNat then assemble16 (srcSign s) 31 0
      else if (srcExp s).toNat ≤ 112 then assemble16 (srcSign s) 0 0
      else assemble16 (srcSign s) (BitVec.ofNat 5 ((srcExp s).toNat - 112)) ((srcMan s).extractLsb' 13 10) := by
  have he0 : srcExp s ≠ 0#8 := mt (srcExp_eq_zero_iff s).mp hzero.ne'
  have he1 : srcExp s ≠ 0xFF#8 := mt (srcExp_eq_ones_iff s).mp hones.ne
  simp only [rebias16, if_neg he0, if_neg he1]
  generalize (srcExp s).toNat = e
  refine ite_congr (by simp only [eq_iff_iff]; omega) (fun _ => rfl) fun _ => ?_
  refine ite_congr (by simp only [eq_iff_iff]; omega) (fun _ => rfl) fun hlarge => ?_
  rw [← BitVec.ofInt_natCast]
  congr 2
  omega

theorem enc16_of_nan (h : isNaN32 s = true) : enc16 s = nan16 := if_pos h

/-- Past the NaN test `Enc16` is `Rebias16` (R84). -/
theorem enc16_of_not_nan (h : isNaN32 s = false) : enc16 s = rebias16 s := by
  rw [enc16, h]
  rfl

theorem enc16_of_inf (h : isInf32 s = true) : enc16 s = assemble16 (srcSign s) 31 0 :=
  (enc16_of_not_nan (isNaN32_of_isInf32 h)).trans (rebias16_of_inf h)

/-- Below the FP16 exponent range the result is a zero of the source's sign (R83, R87). -/
theorem enc16_of_small (h : (srcExp s).toNat ≤ 112) : enc16 s = assemble16 (srcSign s) 0 0 := by
  rw [enc16_of_not_nan (isNaN32_eq_false (by omega))]
  by_cases hzero : srcExp s = 0#8
  · simp [rebias16, hzero]
  · have hpos := Nat.pos_of_ne_zero (mt (srcExp_eq_zero_iff s).mpr hzero)
    rw [rebias16_of_normal hpos (by omega), if_neg (by omega), if_pos h]

/-- In the FP16 exponent range the mantissa is truncated to its top ten bits (R83, R87). -/
theorem enc16_of_medium (hlow : 112 < (srcExp s).toNat) (hhigh : (srcExp s).toNat ≤ 142) :
    enc16 s = assemble16 (srcSign s) (BitVec.ofNat 5 ((srcExp s).toNat - 112)) ((srcMan s).extractLsb' 13 10) := by
  rw [enc16_of_not_nan (isNaN32_eq_false (by omega)), rebias16_of_normal (by omega) (by omega), if_neg (by omega),
    if_neg (by omega)]

/-- Above the FP16 exponent range the result is an infinity of the source's sign (R83, R87). -/
theorem enc16_of_large (hlow : 142 < (srcExp s).toNat) (hhigh : (srcExp s).toNat < 255) :
    enc16 s = assemble16 (srcSign s) 31 0 := by
  rw [enc16_of_not_nan (isNaN32_eq_false (by omega)), rebias16_of_normal (by omega) (by omega), if_pos (by omega)]

/-! `EncBF`. -/

theorem encBF_of_zero (h : isZero32 s = true) : encBF s = assembleBF false 0 0 := if_pos h

theorem encBF_of_inf (h : isInf32 s = true) : encBF s = infBF (srcSign s) := by
  simp [encBF, isZero32_of_isInf32 h, h]

theorem encBF_of_nan (h : isNaN32 s = true) : encBF s = nanBF := by
  obtain ⟨he, hm⟩ := (isNaN32_iff_fields s).mp h
  have hinf : isInf32 s = false := by
    rw [Bool.eq_false_iff]
    exact fun hinf => hm ((isInf32_iff_fields s).mp hinf).2
  simp [encBF, isZero32_eq_false (.inr hm), hinf, h]

/-- The top half of a word is its sign, its exponent field and the top seven bits of its mantissa field (R85). -/
theorem topHalf_eq (s : Word) :
    s.extractLsb' 16 16 = assembleBF (srcSign s) (srcExp s) ((srcMan s).extractLsb' 16 7) := by
  have hsign : BitVec.ofBool (srcSign s) = s.extractLsb' 31 1 := by
    ext i hi
    obtain rfl : i = 0 := by omega
    simp [srcSign]
  have hman : (srcMan s).extractLsb' 16 7 = s.extractLsb' 16 7 := by
    rw [srcMan, BitVec.extractLsb'_extractLsb'_of_le (by decide)]
  have hupper : (s.extractLsb' 31 1 ++ srcExp s : BitVec 9) = s.extractLsb' 23 9 :=
    BitVec.extractLsb'_append_extractLsb'_eq_extractLsb' rfl
  rw [assembleBF, hsign, hman, hupper, eq_comm]
  exact BitVec.extractLsb'_append_extractLsb'_eq_extractLsb' rfl

/-- A finite source that is no zero is truncated to its top half (R85). -/
theorem encBF_of_finite (hfin : (srcExp s).toNat ≠ 255) (hzero : srcExp s ≠ 0#8 ∨ srcMan s ≠ 0#23) :
    encBF s = assembleBF (srcSign s) (srcExp s) ((srcMan s).extractLsb' 16 7) := by
  simp [encBF, isZero32_eq_false hzero, isInf32_eq_false hfin, isNaN32_eq_false hfin, topHalf_eq]

/-! `Enc32`. -/

theorem enc32_of_nan (h : isNaN32 s = true) : enc32 s = nan32 := if_pos h

theorem enc32_of_not_nan (h : isNaN32 s = false) : enc32 s = s := by
  rw [enc32, h]
  rfl

end

end Sys2Proof.Machine

/-! PROOFS. What a narrowing can do to a value (41_convert.md R90), said once for the three formats: keep it, lose the
low bits of its significand, or leave the range of the format. -/

namespace Sys2Proof.Machine

/-- The value of a source word against the value of what `fmt` encodes it to (R82 to R85): the significand loses its low
`23 - MW` bits, whose weight the exponent takes over. -/
inductive Narrows (fmt : Fmt) : Val → Val → Prop where
  | nan : Narrows fmt .nan .nan
  | infinity (s : Bool) : Narrows fmt (.inf s) (.inf s)
  | zero (s : Bool) : fmt ≠ .bf16 → Narrows fmt (.zero s) (.zero s)
  /-- Only BF16 drops the sign of a zero source (R85). -/
  | zeroBF (s : Bool) : fmt = .bf16 → Narrows fmt (.zero s) (.zero false)
  | underflow (s : Bool) (n : Nat) (k : Int) : Narrows fmt (.fin s n k) (.zero s)
  | overflow (s : Bool) (n : Nat) (k : Int) : fmt = .fp16 → Narrows fmt (.fin s n k) (.inf s)
  | truncated (s : Bool) (n : Nat) (k : Int) (low : BitVec (23 - fmt.mw)) :
      Narrows fmt (.fin s (n * 2 ^ (23 - fmt.mw) + low.toNat) k) (.fin s n (k + (23 - fmt.mw : Nat)))

/-! The significand of the source word, cut where a format truncates it. -/

/-- The mantissa field is its top `k` bits over its low `d`. -/
theorem srcMan_split (s : Word) {k d : Nat} (h : d + k = 23) :
    (srcMan s).toNat = ((srcMan s).extractLsb' d k).toNat * 2 ^ d + (s.extractLsb' 0 d).toNat := by
  have hhigh : (srcMan s).toNat / 2 ^ d < 2 ^ k :=
    Nat.div_lt_of_lt_mul (by rw [← Nat.pow_add, h]; exact (srcMan s).isLt)
  have hlow : (s.extractLsb' 0 d).toNat = (srcMan s).toNat % 2 ^ d := by
    rw [BitVec.extractLsb'_toNat, Nat.shiftRight_zero, srcMan_toNat,
      Nat.mod_mod_of_dvd _ (Nat.pow_dvd_pow 2 (by omega))]
  rw [hlow, BitVec.extractLsb'_toNat, Nat.shiftRight_eq_div_pow, Nat.mod_eq_of_lt hhigh, Nat.div_add_mod']

theorem v32_of_isSub32_split {s : Word} (h : isSub32 s = true) {k d : Nat} (hkd : d + k = 23) :
    v32 s = .fin (srcSign s) (((srcMan s).extractLsb' d k).toNat * 2 ^ d + (s.extractLsb' 0 d).toNat) (-149) := by
  rw [v32_of_isSub32 h, srcMan_split s hkd]

theorem v32_of_normal_split {s : Word} (hzero : 0 < (srcExp s).toNat) (hones : (srcExp s).toNat < 255) {k d : Nat}
    (hkd : d + k = 23) :
    v32 s = .fin (srcSign s) ((2 ^ k + ((srcMan s).extractLsb' d k).toNat) * 2 ^ d + (s.extractLsb' 0 d).toNat)
      ((srcExp s).toNat - 150) := by
  rw [v32_of_normal hzero hones, srcMan_split s hkd, Nat.add_mul, ← Nat.pow_add, Nat.add_comm k, hkd, Nat.add_assoc]

/-! Each format. -/

/-- `Narrows` of a conversion, from the value of the source and that of the encoded pattern. -/
theorem narrows_of_eq {fmt : Fmt} {s : Word} {p : Pattern fmt} {c : Cls} {o f : Val} (hp : encodeTo fmt s = p)
    (ho : v32 s = o) (hd : (decompose fmt p).cls = c ∧ (decompose fmt p).fv = f) (h : Narrows fmt o f) :
    Narrows fmt (v32 s) (convert fmt s).fv := by
  rw [convert_fv, hp, ho, hd.2]
  exact h

/-- `Enc32` keeps the value: it changes no word but a NaN, and that to a NaN (R82). -/
theorem fv_enc32 (s : Word) : (decompose .fp32 (enc32 s)).fv = v32 s := by
  cases h : isNaN32 s with
  | false =>
    rw [enc32_of_not_nan h]
    rfl
  | true =>
    rw [enc32_of_nan h, v32_of_isNaN32 h]
    decide

/-- Nothing is truncated from a value that keeps all 23 bits. -/
theorem narrows_fp32_fin (s : Bool) (n : Nat) (k : Int) : Narrows .fp32 (.fin s n k) (.fin s n k) := by
  simpa using Narrows.truncated (fmt := .fp32) s n k 0

theorem narrows_convert_fp32 (s : Word) : Narrows .fp32 (v32 s) (convert .fp32 s).fv := by
  rw [convert_fv, encodeTo_fp32, fv_enc32]
  rcases source_cases s with h | h | h | h | ⟨hzero, hones⟩
  · rw [v32_of_isNaN32 h]
    exact .nan
  · rw [v32_of_isInf32 h]
    exact .infinity _
  · rw [v32_of_isZero32 h]
    exact .zero _ (by decide)
  · rw [v32_of_isSub32 h]
    exact narrows_fp32_fin _ _ _
  · rw [v32_of_normal hzero hones]
    exact narrows_fp32_fin _ _ _

theorem decompose_nan16 : (decompose .fp16 nan16).cls = .nan ∧ (decompose .fp16 nan16).fv = .nan := by decide

/-- A truncated FP16 significand (R83): thirteen bits are lost. -/
theorem decompose_enc16_of_medium {s : Word} (hlow : 112 < (srcExp s).toNat) (hhigh : (srcExp s).toNat ≤ 142) :
    (decompose .fp16 (enc16 s)).cls = .normal
      ∧ (decompose .fp16 (enc16 s)).fv
        = .fin (srcSign s) (2 ^ 10 + ((srcMan s).extractLsb' 13 10).toNat) ((srcExp s).toNat - 150 + (13 : Nat)) := by
  obtain ⟨hcls, hfv⟩ := decompose_normal16 (srcSign s) (e := (srcExp s).toNat - 112) (by omega) (by omega)
    ((srcMan s).extractLsb' 13 10)
  rw [enc16_of_medium hlow hhigh]
  refine ⟨hcls, hfv.trans ?_⟩
  congr 1
  omega

theorem narrows_convert_fp16 (s : Word) : Narrows .fp16 (v32 s) (convert .fp16 s).fv := by
  rcases source_cases s with h | h | h | h | ⟨hzero, hones⟩
  · exact narrows_of_eq (enc16_of_nan h) (v32_of_isNaN32 h) decompose_nan16 .nan
  · exact narrows_of_eq (enc16_of_inf h) (v32_of_isInf32 h) (decompose_inf16 _) (.infinity _)
  · refine narrows_of_eq (enc16_of_small ?_) (v32_of_isZero32 h) (decompose_zero16 _) (.zero _ (by decide))
    rw [srcExp_of_isZero32 h]
    omega
  · refine narrows_of_eq (enc16_of_small ?_) (v32_of_isSub32 h) (decompose_zero16 _) (.underflow _ _ _)
    rw [srcExp_of_isSub32 h]
    omega
  · by_cases hsmall : (srcExp s).toNat ≤ 112
    · exact narrows_of_eq (enc16_of_small hsmall) (v32_of_normal hzero hones) (decompose_zero16 _) (.underflow _ _ _)
    by_cases hlarge : 142 < (srcExp s).toNat
    · exact narrows_of_eq (enc16_of_large hlarge hones) (v32_of_normal hzero hones) (decompose_inf16 _)
        (.overflow _ _ _ rfl)
    · exact narrows_of_eq rfl (v32_of_normal_split hzero hones rfl)
        (decompose_enc16_of_medium (by omega) (by omega)) (.truncated _ _ _ _)

theorem decompose_nanBF : (decompose .bf16 nanBF).cls = .nan ∧ (decompose .bf16 nanBF).fv = .nan := by decide

/-- A subnormal source whose top seven mantissa bits are zero is truncated to a zero of its sign (R85, R88). -/
theorem encBF_of_tiny {s : Word} (h : isSub32 s = true) (hhigh : (srcMan s).extractLsb' 16 7 = 0#7) :
    encBF s = assembleBF (srcSign s) 0 0 := by
  obtain ⟨he, hm⟩ := (isSub32_iff_fields s).mp h
  rw [encBF_of_finite (by rw [he]; decide) (.inr hm), he, hhigh]
  rfl

/-- A truncated BF16 subnormal (R85, R88): sixteen bits are lost. -/
theorem decompose_encBF_of_sub {s : Word} (h : isSub32 s = true) (hhigh : (srcMan s).extractLsb' 16 7 ≠ 0#7) :
    (decompose .bf16 (encBF s)).cls = .denormalized
      ∧ (decompose .bf16 (encBF s)).fv
        = .fin (srcSign s) ((srcMan s).extractLsb' 16 7).toNat (-149 + (16 : Nat)) := by
  obtain ⟨he, hm⟩ := (isSub32_iff_fields s).mp h
  rw [encBF_of_finite (by rw [he]; decide) (.inr hm), he]
  exact decompose_subnormalBF _ hhigh

/-- A truncated BF16 Normal (R85, R88): sixteen bits are lost. -/
theorem decompose_encBF_of_normal {s : Word} (hzero : 0 < (srcExp s).toNat) (hones : (srcExp s).toNat < 255) :
    (decompose .bf16 (encBF s)).cls = .normal
      ∧ (decompose .bf16 (encBF s)).fv
        = .fin (srcSign s) (2 ^ 7 + ((srcMan s).extractLsb' 16 7).toNat) ((srcExp s).toNat - 150 + (16 : Nat)) := by
  obtain ⟨hcls, hfv⟩ := decompose_normalBF (srcSign s) hzero hones ((srcMan s).extractLsb' 16 7)
  rw [encBF_of_finite hones.ne (.inl (mt (srcExp_eq_zero_iff s).mp hzero.ne'))]
  refine ⟨hcls, hfv.trans ?_⟩
  congr 1
  omega

theorem narrows_convert_bf16 (s : Word) : Narrows .bf16 (v32 s) (convert .bf16 s).fv := by
  rcases source_cases s with h | h | h | h | ⟨hzero, hones⟩
  · exact narrows_of_eq (encBF_of_nan h) (v32_of_isNaN32 h) decompose_nanBF .nan
  · exact narrows_of_eq (encBF_of_inf h) (v32_of_isInf32 h) (decompose_infBF _) (.infinity _)
  · exact narrows_of_eq (encBF_of_zero h) (v32_of_isZero32 h) (decompose_zeroBF _) (.zeroBF _ rfl)
  · by_cases hhigh : (srcMan s).extractLsb' 16 7 = 0#7
    · exact narrows_of_eq (encBF_of_tiny h hhigh) (v32_of_isSub32 h) (decompose_zeroBF _) (.underflow _ _ _)
    · exact narrows_of_eq rfl (v32_of_isSub32_split h rfl) (decompose_encBF_of_sub h hhigh) (.truncated _ _ _ _)
  · exact narrows_of_eq rfl (v32_of_normal_split hzero hones rfl) (decompose_encBF_of_normal hzero hones)
      (.truncated _ _ _ _)

/-- Everything a conversion can do to the value of its source word. -/
theorem narrows_convert (fmt : Fmt) (s : Word) : Narrows fmt (v32 s) (convert fmt s).fv := by
  cases fmt with
  | fp32 => exact narrows_convert_fp32 s
  | fp16 => exact narrows_convert_fp16 s
  | bf16 => exact narrows_convert_bf16 s

/-! What follows for magnitude, sign and class. -/

/-- A significand and an exponent give the magnitude (R7). -/
theorem abs_of_toRat_fin {s : Bool} {n : Nat} {k : Int} {x : Rat} (h : (Val.fin s n k).toRat = some x) :
    |x| = n * 2 ^ k := by
  have habs : |(signFactor s : Rat)| = 1 := by cases s <;> simp [signFactor]
  rw [Val.toRat, Option.some_inj] at h
  rw [← h, abs_mul, abs_mul, habs, one_mul, Nat.abs_cast, abs_of_pos (zpow_pos two_pos k)]

/-- Truncation loses the low bits at the source's exponent (R83, R85). -/
theorem abs_sub_of_truncated {s : Bool} {n d : Nat} {k : Int} {low : BitVec d} {x y : Rat}
    (hx : (Val.fin s (n * 2 ^ d + low.toNat) k).toRat = some x) (hy : (Val.fin s n (k + d)).toRat = some y) :
    |x| - |y| = low.toNat * 2 ^ k := by
  rw [abs_of_toRat_fin hx, abs_of_toRat_fin hy, zpow_add₀ two_ne_zero, zpow_natCast]
  push_cast
  ring

section
variable {fmt : Fmt} {o f : Val}

/-- A truncated value is below its source in magnitude, by less than one unit in its last place (R90). -/
theorem Narrows.truncated_bounds {s : Bool} {n : Nat} {k : Int} {x y : Rat} (h : Narrows fmt o (.fin s n k))
    (hx : o.toRat = some x) (hy : (Val.fin s n k).toRat = some y) : |x| - |y| < 2 ^ k ∧ |y| ≤ |x| := by
  cases h with
  | truncated _ _ k low =>
    have hsub := abs_sub_of_truncated hx hy
    have hlow : (low.toNat : Rat) < 2 ^ (23 - fmt.mw) := by exact_mod_cast low.isLt
    have hpos : (0 : Rat) < 2 ^ k := zpow_pos two_pos k
    constructor
    · rw [hsub, zpow_add₀ two_ne_zero, zpow_natCast, mul_comm]
      exact mul_lt_mul_of_pos_left hlow hpos
    · have hnonneg : (0 : Rat) ≤ low.toNat * 2 ^ k := by positivity
      linarith

/-- A finite result has a finite source of at least its magnitude (R90). -/
theorem Narrows.abs_le (h : Narrows fmt o f) {y : Rat} (hy : f.toRat = some y) :
    ∃ x, o.toRat = some x ∧ |y| ≤ |x| := by
  cases h with
  | nan => cases hy
  | infinity s => cases hy
  | overflow s n k => cases hy
  | zero s => exact ⟨0, rfl, by cases hy; exact le_rfl⟩
  | zeroBF s => exact ⟨0, rfl, by cases hy; exact le_rfl⟩
  | underflow s n k => exact ⟨_, rfl, by cases hy; rw [abs_zero]; exact abs_nonneg _⟩
  | truncated s n k low => exact ⟨_, rfl, ((Narrows.truncated s n k low).truncated_bounds rfl hy).2⟩

/-- A finite source gives an infinity only by FP16 overflow (R90, R102). -/
theorem Narrows.overflow_of_finite (h : Narrows fmt o f) {x : Rat} (hx : o.toRat = some x) {b : Bool}
    (hf : f = .inf b) : fmt = .fp16 ∧ ovfFlag o f = true := by
  subst hf
  cases h with
  | infinity s => cases hx
  | overflow s n k hfmt => exact ⟨hfmt, rfl⟩

/-- The sign is kept, but by a NaN, which has none, and by -0 into BF16 (R90). -/
theorem Narrows.sign_eq (h : Narrows fmt o f) (hzero : ¬(fmt = .bf16 ∧ o = .zero true)) : f.sign = o.sign := by
  cases h with
  | zeroBF s hfmt =>
    cases s with
    | false => rfl
    | true => exact absurd ⟨hfmt, rfl⟩ hzero
  | _ => rfl

/-- A NaN comes from a NaN alone and gives one (R101). -/
theorem Narrows.eq_nan_iff (h : Narrows fmt o f) : f = .nan ↔ o = .nan := by
  cases h <;> simp

end

end Sys2Proof.Machine

/-! PROOFS. Truncation (41_convert.md R83, R85, R90), read off `narrows_convert`. -/

namespace Sys2Proof.Machine

/-- A value that is the zero -0 has one source word (R68). -/
theorem v32_eq_negative_zero_iff (s : Word) : v32 s = .zero true ↔ s = 0x80000000#32 := by
  refine ⟨fun h => ?_, fun h => by rw [h]; decide⟩
  have hv : v32 0x80000000#32 = .zero true := by decide
  exact pattern_eq_of_value_eq (fmt := .fp32) (p := s) (q := 0x80000000#32) (by decide)
    (congrArg Val.sign (h.trans hv.symm)) (congrArg Val.toRat (h.trans hv.symm))

/-- A pattern is a NaN by its value (R67). -/
theorem fv_eq_nan_iff (fmt : Fmt) (p : Pattern fmt) : (decompose fmt p).fv = .nan ↔ (decompose fmt p).cls = .nan := by
  rw [decompose_fv]
  cases (decompose fmt p).cls <;> simp [valueOf]

theorem v32_eq_nan_iff (s : Word) : v32 s = .nan ↔ isNaN32 s = true := by
  rw [isNaN32_iff_cls]
  exact fv_eq_nan_iff .fp32 s

/-- The encoded pattern is a NaN exactly when the source word is (R82, R84, R85). -/
theorem cls_encodeTo_eq_nan_iff (fmt : Fmt) (s : Word) :
    (decompose fmt (encodeTo fmt s)).cls = .nan ↔ isNaN32 s = true := by
  rw [← fv_eq_nan_iff, ← v32_eq_nan_iff]
  exact (narrows_convert fmt s).eq_nan_iff

/-- The sign a conversion reports is the source's, but for a NaN and for -0 into BF16 (R90). -/
theorem convert_sgn_eq {fmt : Fmt} {src : Word} (hnan : isNaN32 src = false)
    (hzero : ¬(fmt = .bf16 ∧ src = 0x80000000)) : (convert fmt src).sgn = srcSign src := by
  have hsource : (decompose .fp32 src).cls ≠ .nan := by
    rw [Ne, ← isNaN32_iff_cls, hnan]
    decide
  have hresult : (decompose fmt (encodeTo fmt src)).cls ≠ .nan := by
    rw [Ne, cls_encodeTo_eq_nan_iff, hnan]
    decide
  have hsign : (convert fmt src).fv.sign = (v32 src).sign :=
    (narrows_convert fmt src).sign_eq (by rwa [v32_eq_negative_zero_iff])
  rw [convert_fv, v32, sign_fv, sign_fv, if_neg hresult, if_neg hsource] at hsign
  exact Option.some_inj.mp hsign

/-- Settles O45, clause by clause from `Narrows`; the two canonical 16-bit NaNs are positive. -/
theorem narrowingTruncatesTowardZero : Obligations.NarrowingTruncatesTowardZero := by
  unfold Obligations.NarrowingTruncatesTowardZero
  intro fmt src hfmt r
  have hnarrows : Narrows fmt (v32 src) r.fv := narrows_convert fmt src
  refine ⟨fun y hy => hnarrows.abs_le hy, convert_sgn_eq, fun hnan => ?_, ?_, fun x b hx hb =>
    hnarrows.overflow_of_finite hx hb⟩
  · cases fmt with
    | fp32 => exact absurd rfl hfmt
    | fp16 =>
      rw [convert_sgn, encodeTo_fp16, enc16_of_nan hnan]
      decide
    | bf16 =>
      rw [convert_sgn, encodeTo_bf16, encBF_of_nan hnan]
      decide
  · rintro rfl rfl
    decide

/-- Settles O46: the exponent of a Normal result's term is `EXPV - MW` (R65). -/
theorem truncationLosesLessThanOneUlp : Obligations.TruncationLosesLessThanOneUlp := by
  unfold Obligations.TruncationLosesLessThanOneUlp
  intro fmt src x y r hcls hx hy
  have hfv : r.fv = .fin r.sgn (2 ^ fmt.mw + r.man.toNat) (r.expv.toInt - fmt.mw) :=
    (describes_decompose fmt (encodeTo fmt src)).fvNormal hcls
  have hnarrows : Narrows fmt (v32 src) r.fv := narrows_convert fmt src
  rw [hfv] at hnarrows hy
  exact hnarrows.truncated_bounds hx hy

end Sys2Proof.Machine

/-! PROOFS. The results of the three `CVT` commands (41_convert.md R86 to R88): the flags by what happened to the value
(42_precision_loss.md R105), then one row of the format's table after the other. -/

namespace Sys2Proof.Machine

/-! The flags. -/

/-- Two terms of one value are no loss (R101). -/
theorem lossFlag_of_sameValue {o f : Val} (h : sameValue o f = true) : lossFlag o f = false := by
  cases o <;> cases f <;> simp_all [sameValue, lossFlag, numeq, Val.isNaN]

/-- Without a loss no flag is set (R105). -/
theorem lossFlags_of_not_loss {o f : Val} (h : lossFlag o f = false) : lossFlags o f = ⟨false, false, false⟩ := by
  simp [lossFlags, ovfFlag, unfFlag, h]

theorem lossFlags_self (v : Val) : lossFlags v v = ⟨false, false, false⟩ :=
  lossFlags_of_not_loss (lossFlag_of_sameValue (sameValue_refl v))

theorem lossFlags_zero (s t : Bool) : lossFlags (.zero s) (.zero t) = ⟨false, false, false⟩ := rfl

theorem lossFlags_underflow (s t : Bool) (n : Nat) (k : Int) :
    lossFlags (.fin s n k) (.zero t) = ⟨true, false, true⟩ := rfl

theorem lossFlags_overflow (s t : Bool) (n : Nat) (k : Int) :
    lossFlags (.fin s n k) (.inf t) = ⟨true, true, false⟩ := rfl

/-- A truncation is a loss exactly when a lost bit was 1 (R106). -/
theorem lossFlags_truncated (s : Bool) (n : Nat) (k : Int) {d : Nat} (low : BitVec d) :
    lossFlags (.fin s (n * 2 ^ d + low.toNat) k) (.fin s n (k + d)) = ⟨low != 0#d, false, false⟩ := by
  have hzero : low.toNat = 0 ↔ low = 0#d := by simp [BitVec.toNat_eq]
  have hloss : lossFlag (.fin s (n * 2 ^ d + low.toNat) k) (.fin s n (k + d)) = (low != 0#d) := by
    rw [Bool.eq_iff_iff]
    simp [lossFlag, numeq, sameMagnitude, Val.isNaN, hzero]
  simp [lossFlags, ovfFlag, unfFlag, hloss, Val.isInf, Val.isZero]

/-! One row of a table. -/

/-- What R87's and R88's tables list for a source word: the pattern, the class and the flags. -/
def tableRow (r : Fields) : Word × Cls × Bool × Bool × Bool := (r.bits, r.cls, r.loss, r.ovf, r.unf)

/-- A row from the value of the source word, the encoded pattern with its class and value, and the flags between the two
values. -/
theorem tableRow_convert {fmt : Fmt} {src : Word} {p : Pattern fmt} {b : Word} {o f : Val} {c : Cls} {l v u : Bool}
    (hp : encodeTo fmt src = p) (hb : p.setWidth 32 = b) (ho : v32 src = o)
    (hd : (decompose fmt p).cls = c ∧ (decompose fmt p).fv = f) (hfl : lossFlags o f = ⟨l, v, u⟩) :
    tableRow (convert fmt src) = (b, c, l, v, u) := by
  obtain ⟨hl, hv, hu⟩ := LossFlags.mk.inj hfl
  obtain ⟨hcls, hfv⟩ := hd
  rw [tableRow, convert_bits, convert_cls, convert_loss, convert_ovf, convert_unf, hp, hb, ho, hcls, hfv, hl, hv, hu]

/-- The record of a conversion describes the encoded pattern (R61, R80). -/
theorem describes_convert (fmt : Fmt) (src : Word) : Describes fmt (encodeTo fmt src) (convert fmt src) := by
  obtain ⟨⟩ := describes_decompose fmt (encodeTo fmt src)
  constructor <;> assumption

/-- A 16-bit pattern in `BITS` is read back from its low half (R15). -/
theorem setWidth_extractLsb'_16 (p : BitVec 16) : (p.setWidth 32).extractLsb' 0 16 = p :=
  (BitVec.extractLsb'_setWidth_of_le (by decide)).trans BitVec.extractLsb'_eq_self

/-- `BITS` of a 16-bit pattern: zeros above it (R15). -/
theorem setWidth_eq_zero_append (p : BitVec 16) : p.setWidth 32 = (0#16 ++ p : BitVec 32) := by
  have happend : (0#16 ++ p : BitVec (16 + 16)).toNat = p.toNat := by
    rw [BitVec.toNat_append]
    simp
  apply BitVec.eq_of_toNat_eq
  exact (BitVec.toNat_setWidth_of_le (by decide)).trans happend.symm

/-! `CVT.FP32`. -/

/-- Settles O38: only a NaN changes, and no value does. -/
theorem cvtFp32Result : Obligations.CvtFp32Result := by
  unfold Obligations.CvtFp32Result
  intro src s
  have hbits : (convert .fp32 src).bits = enc32 src := BitVec.setWidth_eq _
  have hfv32 : (decompose .fp32 (enc32 src)).fv32 = enc32 src := by
    cases h : isNaN32 src with
    | true =>
      rw [enc32_of_nan h]
      decide
    | false =>
      rw [enc32_of_not_nan h]
      exact fv32_fp32 (by rw [Ne, ← isNaN32_iff_cls, h]; decide)
  have hflags : lossFlags (v32 src) (decompose .fp32 (enc32 src)).fv = ⟨false, false, false⟩ := by
    rw [fv_enc32, lossFlags_self]
  obtain ⟨hloss, hovf, hunf⟩ := LossFlags.mk.inj hflags
  refine ⟨convert .fp32 src, exec_of_responseOf rfl s, ?_, ?_, ?_, hloss, hovf, hunf⟩
  · rw [hbits, enc32]
    exact if_congr (isNaN32_iff_fields src) (by decide) rfl
  · rw [hbits]
    exact describes_convert .fp32 src
  · rw [hbits]
    exact hfv32

/-! `CVT.FP16`. -/

theorem setWidth_zero16 (s : Bool) : (assemble16 s 0 0).setWidth 32 = if s then 0x8000#32 else 0x0000#32 := by
  cases s <;> decide

theorem setWidth_inf16 (s : Bool) : (assemble16 s 31 0).setWidth 32 = if s then 0xFC00#32 else 0x7C00#32 := by
  cases s <;> decide

/-- `BITS` of an assembled FP16 pattern, part by part (R87). -/
theorem setWidth_assemble16 (s : Bool) (e : BitVec 5) (m : BitVec 10) :
    (assemble16 s e m).setWidth 32 = (0#16 ++ BitVec.ofBool s ++ e ++ m : BitVec 32) := by
  have hassoc := BitVec.append_assoc (x₁ := 0#16) (x₂ := BitVec.ofBool s ++ e) (x₃ := m)
  have hassoc' := BitVec.append_assoc (x₁ := 0#16) (x₂ := BitVec.ofBool s) (x₃ := e)
  rw [BitVec.cast_eq] at hassoc hassoc'
  rw [setWidth_eq_zero_append, assemble16, hassoc']
  exact hassoc.symm

section
variable {src : Word}

theorem tableRow16_of_nan (h : isNaN32 src = true) :
    tableRow (convert .fp16 src) = (0x7E01, .nan, false, false, false) :=
  tableRow_convert (enc16_of_nan h) (by decide) (v32_of_isNaN32 h) decompose_nan16 (lossFlags_self _)

theorem tableRow16_of_inf (h : isInf32 src = true) :
    tableRow (convert .fp16 src) = (if srcSign src then 0xFC00 else 0x7C00, .infinity, false, false, false) :=
  tableRow_convert (enc16_of_inf h) (setWidth_inf16 _) (v32_of_isInf32 h) (decompose_inf16 _) (lossFlags_self _)

/-- A source with a zero exponent field is an underflow unless it is a zero (R87). -/
theorem tableRow16_of_zero_exponent (h : (srcExp src).toNat = 0) :
    tableRow (convert .fp16 src) =
      (if srcSign src then 0x8000 else 0x0000, .zero, srcMan src != 0, false, srcMan src != 0) := by
  have hexp : srcExp src = 0#8 := (srcExp_eq_zero_iff src).mpr h
  have hsmall : (srcExp src).toNat ≤ 112 := by omega
  by_cases hman : srcMan src = 0#23
  · rw [hman]
    exact tableRow_convert (enc16_of_small hsmall) (setWidth_zero16 _)
      (v32_of_isZero32 ((isZero32_iff_fields src).mpr ⟨hexp, hman⟩)) (decompose_zero16 _) (lossFlags_zero _ _)
  · rw [show (srcMan src != 0) = true from bne_iff_ne.mpr hman]
    exact tableRow_convert (enc16_of_small hsmall) (setWidth_zero16 _)
      (v32_of_isSub32 ((isSub32_iff_fields src).mpr ⟨hexp, hman⟩)) (decompose_zero16 _) (lossFlags_underflow _ _ _ _)

theorem tableRow16_of_small (hzero : (srcExp src).toNat ≠ 0) (h : (srcExp src).toNat ≤ 112) :
    tableRow (convert .fp16 src) = (if srcSign src then 0x8000 else 0x0000, .zero, true, false, true) :=
  tableRow_convert (enc16_of_small h) (setWidth_zero16 _) (v32_of_normal (by omega) (by omega)) (decompose_zero16 _)
    (lossFlags_underflow _ _ _ _)

theorem tableRow16_of_medium (hlow : ¬(srcExp src).toNat ≤ 112) (hhigh : (srcExp src).toNat ≤ 142) :
    tableRow (convert .fp16 src) =
      (0#16 ++ BitVec.ofBool (srcSign src) ++ BitVec.ofNat 5 ((srcExp src).toNat - 112) ++ src.extractLsb' 13 10,
        .normal, src.extractLsb' 0 13 != 0, false, false) := by
  have hman : (srcMan src).extractLsb' 13 10 = src.extractLsb' 13 10 := BitVec.extractLsb'_extractLsb'_of_le (by decide)
  have henc := enc16_of_medium (s := src) (by omega) hhigh
  rw [← hman, ← setWidth_assemble16, ← henc]
  exact tableRow_convert rfl rfl (v32_of_normal_split (by omega) (by omega) rfl)
    (decompose_enc16_of_medium (by omega) hhigh) (lossFlags_truncated _ _ _ _)

theorem tableRow16_of_large (hlow : ¬(srcExp src).toNat ≤ 142) (hhigh : (srcExp src).toNat ≠ 255) :
    tableRow (convert .fp16 src) = (if srcSign src then 0xFC00 else 0x7C00, .infinity, true, true, false) := by
  have hmax : (srcExp src).toNat < 256 := (srcExp src).isLt
  exact tableRow_convert (enc16_of_large (by omega) (by omega)) (setWidth_inf16 _) (v32_of_normal (by omega) (by omega))
    (decompose_inf16 _) (lossFlags_overflow _ _ _ _)

end

/-- Settles O39, row by row. -/
theorem cvtFp16Result : Obligations.CvtFp16Result := by
  unfold Obligations.CvtFp16Result
  intro src s
  refine ⟨convert .fp16 src, exec_of_responseOf rfl s, ?_, sameValue_fv32 .fp16 _, ?_⟩
  · rw [convert_bits, setWidth_extractLsb'_16]
    exact describes_convert .fp16 src
  intro e m sg
  change tableRow (convert .fp16 src) = _
  split
  case isTrue hones =>
    have hexp : srcExp src = 0xFF#8 := (srcExp_eq_ones_iff src).mpr hones
    split
    case isTrue hman => exact tableRow16_of_nan ((isNaN32_iff_fields src).mpr ⟨hexp, hman⟩)
    case isFalse hman => exact tableRow16_of_inf ((isInf32_iff_fields src).mpr ⟨hexp, not_not.mp hman⟩)
  case isFalse hones =>
    split
    case isTrue hzero => exact tableRow16_of_zero_exponent hzero
    case isFalse hzero =>
      split
      case isTrue hsmall => exact tableRow16_of_small hzero hsmall
      case isFalse hsmall =>
        split
        case isTrue hmedium => exact tableRow16_of_medium hsmall hmedium
        case isFalse hmedium => exact tableRow16_of_large hmedium hones

/-! `CVT.BF16`. -/

theorem setWidth_zeroBF (s : Bool) : (assembleBF s 0 0).setWidth 32 = if s then 0x8000#32 else 0x0000#32 := by
  cases s <;> decide

theorem setWidth_infBF (s : Bool) : (infBF s).setWidth 32 = if s then 0xFF80#32 else 0x7F80#32 := by
  cases s <;> decide

section
variable {src : Word}

theorem tableRowBF_of_nan (h : isNaN32 src = true) :
    tableRow (convert .bf16 src) = (0x7FC0, .nan, false, false, false) :=
  tableRow_convert (encBF_of_nan h) (by decide) (v32_of_isNaN32 h) decompose_nanBF (lossFlags_self _)

theorem tableRowBF_of_inf (h : isInf32 src = true) :
    tableRow (convert .bf16 src) = (if srcSign src then 0xFF80 else 0x7F80, .infinity, false, false, false) :=
  tableRow_convert (encBF_of_inf h) (setWidth_infBF _) (v32_of_isInf32 h) (decompose_infBF _) (lossFlags_self _)

theorem tableRowBF_of_zero (h : isZero32 src = true) :
    tableRow (convert .bf16 src) = (0x0000, .zero, false, false, false) :=
  tableRow_convert (encBF_of_zero h) (by decide) (v32_of_isZero32 h) (decompose_zeroBF _) (lossFlags_zero _ _)

/-- The top seven mantissa bits by the source word (R88). -/
theorem srcMan_high7 (src : Word) : (srcMan src).extractLsb' 16 7 = src.extractLsb' 16 7 :=
  BitVec.extractLsb'_extractLsb'_of_le (by decide)

theorem tableRowBF_of_tiny (h : isSub32 src = true) (hhigh : src.extractLsb' 16 7 = 0#7) :
    tableRow (convert .bf16 src) = (if srcSign src then 0x8000 else 0x0000, .zero, true, false, true) :=
  tableRow_convert (encBF_of_tiny h ((srcMan_high7 src).trans hhigh)) (setWidth_zeroBF _) (v32_of_isSub32 h)
    (decompose_zeroBF _) (lossFlags_underflow _ _ _ _)

/-- A source that is truncated fills `BITS` with its top half (R88). -/
theorem setWidth_encBF_of_finite (hfin : (srcExp src).toNat ≠ 255) (hzero : srcExp src ≠ 0#8 ∨ srcMan src ≠ 0#23) :
    (encBF src).setWidth 32 = (0#16 ++ src.extractLsb' 16 16 : BitVec 32) := by
  rw [encBF_of_finite hfin hzero, ← topHalf_eq, setWidth_eq_zero_append]

theorem tableRowBF_of_sub (h : isSub32 src = true) (hhigh : src.extractLsb' 16 7 ≠ 0#7) :
    tableRow (convert .bf16 src) =
      (0#16 ++ src.extractLsb' 16 16, .denormalized, src.extractLsb' 0 16 != 0, false, false) := by
  have hfin : (srcExp src).toNat ≠ 255 := by
    rw [srcExp_of_isSub32 h]
    decide
  exact tableRow_convert rfl (setWidth_encBF_of_finite hfin (.inr ((isSub32_iff_fields src).mp h).2))
    (v32_of_isSub32_split h rfl) (decompose_encBF_of_sub h (srcMan_high7 src ▸ hhigh)) (lossFlags_truncated _ _ _ _)

theorem tableRowBF_of_normal (hzero : (srcExp src).toNat ≠ 0) (hones : (srcExp src).toNat ≠ 255) :
    tableRow (convert .bf16 src) =
      (0#16 ++ src.extractLsb' 16 16, .normal, src.extractLsb' 0 16 != 0, false, false) := by
  have hpos : 0 < (srcExp src).toNat := Nat.pos_of_ne_zero hzero
  have hmax : (srcExp src).toNat < 255 := lt_of_le_of_ne (Nat.le_of_lt_succ (srcExp src).isLt) hones
  exact tableRow_convert rfl (setWidth_encBF_of_finite hones (.inl (mt (srcExp_eq_zero_iff src).mp hzero)))
    (v32_of_normal_split hpos hmax rfl) (decompose_encBF_of_normal hpos hmax) (lossFlags_truncated _ _ _ _)

end

/-- Settles O40, row by row. -/
theorem cvtBf16Result : Obligations.CvtBf16Result := by
  unfold Obligations.CvtBf16Result
  intro src s
  refine ⟨convert .bf16 src, exec_of_responseOf rfl s, ?_, sameValue_fv32 .bf16 _, ?_⟩
  · rw [convert_bits, setWidth_extractLsb'_16]
    exact describes_convert .bf16 src
  intro e m top
  change tableRow (convert .bf16 src) = _
  split
  case isTrue hones =>
    have hexp : srcExp src = 0xFF#8 := (srcExp_eq_ones_iff src).mpr hones
    split
    case isTrue hman => exact tableRowBF_of_nan ((isNaN32_iff_fields src).mpr ⟨hexp, hman⟩)
    case isFalse hman => exact tableRowBF_of_inf ((isInf32_iff_fields src).mpr ⟨hexp, not_not.mp hman⟩)
  case isFalse hones =>
    split
    case isTrue hzero =>
      have hexp : srcExp src = 0#8 := (srcExp_eq_zero_iff src).mpr hzero
      split
      case isTrue hman => exact tableRowBF_of_zero ((isZero32_iff_fields src).mpr ⟨hexp, hman⟩)
      case isFalse hman =>
        have hsub : isSub32 src = true := (isSub32_iff_fields src).mpr ⟨hexp, hman⟩
        split
        case isTrue hhigh => exact tableRowBF_of_tiny hsub hhigh
        case isFalse hhigh => exact tableRowBF_of_sub hsub hhigh
    case isFalse hzero => exact tableRowBF_of_normal hzero hones

end Sys2Proof.Machine

/-! PROOFS. The range of the encoders (41_convert.md R84, R89), and that encoding the widened value of a pattern in that
range gives the pattern back (95_test_vectors.md, program P4). -/

namespace Sys2Proof.Machine

/-! What the encoders never produce. -/

/-- The encoded pattern of every NaN is the same one (R82, R84, R85). -/
theorem encodeTo_eq_of_nan (fmt : Fmt) {s t : Word} (hs : isNaN32 s = true) (ht : isNaN32 t = true) :
    encodeTo fmt s = encodeTo fmt t := by
  cases fmt with
  | fp32 => exact (enc32_of_nan hs).trans (enc32_of_nan ht).symm
  | fp16 => exact (enc16_of_nan hs).trans (enc16_of_nan ht).symm
  | bf16 => exact (encBF_of_nan hs).trans (encBF_of_nan ht).symm

/-- A NaN the FP16 encoder gives is the canonical one (R84, R89). -/
theorem enc16_eq_of_cls_nan {s : Word} (h : (decompose .fp16 (enc16 s)).cls = .nan) : enc16 s = 0x7E01#16 :=
  enc16_of_nan ((cls_encodeTo_eq_nan_iff .fp16 s).mp h)

/-- The FP16 encoder gives the canonical NaN, an infinity, a zero or a Normal (R89). -/
theorem enc16_range (s : Word) :
    enc16 s = nan16 ∨ enc16 s = assemble16 (srcSign s) 31 0 ∨ enc16 s = assemble16 (srcSign s) 0 0
      ∨ (decompose .fp16 (enc16 s)).cls = .normal := by
  rcases source_cases s with h | h | h | h | ⟨hzero, hones⟩
  · exact .inl (enc16_of_nan h)
  · exact .inr (.inl (enc16_of_inf h))
  · exact .inr (.inr (.inl (enc16_of_small (by rw [srcExp_of_isZero32 h]; decide))))
  · exact .inr (.inr (.inl (enc16_of_small (by rw [srcExp_of_isSub32 h]; decide))))
  · by_cases hsmall : (srcExp s).toNat ≤ 112
    · exact .inr (.inr (.inl (enc16_of_small hsmall)))
    by_cases hlarge : 142 < (srcExp s).toNat
    · exact .inr (.inl (enc16_of_large hlarge hones))
    · exact .inr (.inr (.inr (decompose_enc16_of_medium (by omega) (by omega)).1))

theorem cls_enc16_ne_denormalized (s : Word) : (decompose .fp16 (enc16 s)).cls ≠ .denormalized := by
  rcases enc16_range s with h | h | h | h
  · rw [h, decompose_nan16.1]
    decide
  · rw [h, (decompose_inf16 _).1]
    decide
  · rw [h, (decompose_zero16 _).1]
    decide
  · rw [h]
    decide

/-! Encoding `FV32` of a pattern. -/

/-- The sign, the exponent and the mantissa field make the pattern (R12). -/
theorem pattern_eq_of_fields {fmt : Fmt} {p q : Pattern fmt} (hs : signOf fmt p = signOf fmt q)
    (he : expbOf fmt p = expbOf fmt q) (hm : manOf fmt p = manOf fmt q) : p = q := by
  apply BitVec.eq_of_toNat_eq
  rw [toNat_eq_fields fmt p, toNat_eq_fields fmt q, hs, he, hm]

/-- An FP16 pattern put together again from its own fields (R12). -/
theorem assemble16_fields (p : Pattern .fp16) :
    assemble16 (signOf .fp16 p) (BitVec.ofNat 5 (expbOf .fp16 p).toNat) ((manOf .fp16 p).extractLsb' 0 10) = p := by
  have hexp : (expbOf .fp16 p).toNat ≤ 31 := expbOf_le_maxb .fp16 p
  have hman : (manOf .fp16 p).toNat < 2 ^ 10 := man_toNat_lt .fp16 p
  refine pattern_eq_of_fields (signOf_assemble16 _ _ _) ((expbOf_assemble16 _ _ _).trans ?_)
    ((manOf_assemble16 _ _ _).trans ?_)
  · apply BitVec.eq_of_toNat_eq
    rw [BitVec.toNat_setWidth, BitVec.toNat_ofNat]
    omega
  · apply BitVec.eq_of_toNat_eq
    rw [BitVec.toNat_setWidth, BitVec.extractLsb'_toNat, Nat.shiftRight_zero]
    omega

section
variable (s : Bool) (e : BitVec 8) (m : BitVec 23)

theorem srcSign_assemble32 : srcSign (assemble32 s e m) = s := signOf_assemble32 s e m

theorem srcExp_assemble32 : srcExp (assemble32 s e m) = e := (expbOf_fp32 _).symm.trans (expbOf_assemble32 s e m)

theorem srcMan_assemble32 : srcMan (assemble32 s e m) = m := (manOf_fp32 _).symm.trans (manOf_assemble32 s e m)

end

/-- A Normal FP16 pattern is the encoding of its `FV32`: the bias and the thirteen bits taken away are those widening
added (R70, R83). -/
theorem enc16_fv32_of_normal {p : Pattern .fp16} (h : (decompose .fp16 p).cls = .normal) :
    enc16 (decompose .fp16 p).fv32 = p := by
  have hzero := expb_ne_zero_of_normal h
  have hmax : (expbOf .fp16 p).toNat ≤ 31 := expbOf_le_maxb .fp16 p
  have hones : (expbOf .fp16 p).toNat ≠ 31 := ((decompose_cls_eq_normal_iff .fp16 p).mp h).2.ne
  have hfv32 : (decompose .fp16 p).fv32
      = assemble32 (signOf .fp16 p) (BitVec.ofNat 8 ((expbOf .fp16 p).toNat + 112)) (manOf .fp16 p <<< 13) := by
    rw [decompose_fv32, h, fv32Of]
  have hexp : (srcExp (decompose .fp16 p).fv32).toNat = (expbOf .fp16 p).toNat + 112 := by
    rw [hfv32, srcExp_assemble32, BitVec.toNat_ofNat]
    omega
  have hman : (srcMan (decompose .fp16 p).fv32).extractLsb' 13 10 = (manOf .fp16 p).extractLsb' 0 10 := by
    rw [hfv32, srcMan_assemble32, shiftLeft_man_fp16]
    exact BitVec.extractLsb'_append_eq_left
  rw [enc16_of_medium (by omega) (by omega), hexp, hman, Nat.add_sub_cancel, hfv32, srcSign_assemble32]
  exact assemble16_fields p

/-- Encoding `FV32` of what the FP16 encoder gave gives it again. -/
theorem enc16_fv32_enc16 (s : Word) : enc16 (decompose .fp16 (enc16 s)).fv32 = enc16 s := by
  rcases enc16_range s with h | h | h | h
  · rw [h]
    decide
  · rw [h]
    cases srcSign s <;> decide
  · rw [h]
    cases srcSign s <;> decide
  · exact enc16_fv32_of_normal h

/-- A BF16 pattern over sixteen zeros is encoded to itself, unless it is a NaN or -0 (R85). -/
theorem encBF_append_zero {p : BitVec 16} (hnan : isNaN32 (p ++ 0#16 : BitVec 32) = false) (hzero : p ≠ 0x8000#16) :
    encBF (p ++ 0#16 : BitVec 32) = p := by
  have hpattern (c : BitVec 16) : (p ++ 0#16 : BitVec 32) = c ++ 0#16 ↔ p = c := BitVec.append_left_inj 0#16
  unfold encBF
  split_ifs with h0 h1 h2
  · rcases (isZero32_iff _).mp h0 with h | h
    · exact ((hpattern 0x0000#16).mp h).symm
    · exact absurd ((hpattern 0x8000#16).mp h) hzero
  · rcases (isInf32_iff _).mp h1 with h | h
    · rw [(hpattern 0x7F80#16).mp h]
      decide
    · rw [(hpattern 0xFF80#16).mp h]
      decide
  · exact absurd h2 (by rw [hnan]; decide)
  · exact BitVec.extractLsb'_append_eq_left

/-- The widened value of a pattern that is no NaN is no NaN (R70). -/
theorem isNaN32_fv32 {fmt : Fmt} {p : Pattern fmt} (h : (decompose fmt p).cls ≠ .nan) :
    isNaN32 (decompose fmt p).fv32 = false := by
  obtain ⟨hsign, -⟩ := sign_toRat_eq_of_sameValue (sameValue_fv32 fmt p)
  rw [Bool.eq_false_iff, Ne, ← v32_eq_nan_iff]
  intro hnan
  rw [hnan, sign_fv, if_neg h] at hsign
  cases hsign

/-- Encoding `FV32` of an encoded pattern gives the pattern again, unless it is -0 in BF16. -/
theorem encodeTo_fv32_encodeTo {fmt : Fmt} {src : Word} (hzero : ¬(fmt = .bf16 ∧ (convert fmt src).bits = 0x8000)) :
    encodeTo fmt (convert fmt src).fv32 = encodeTo fmt src := by
  rw [convert_fv32]
  by_cases hcls : (decompose fmt (encodeTo fmt src)).cls = .nan
  · rw [fv32_of_nan hcls]
    exact encodeTo_eq_of_nan fmt (by decide) ((cls_encodeTo_eq_nan_iff fmt src).mp hcls)
  have hnan := isNaN32_fv32 hcls
  cases fmt with
  | fp32 => rw [encodeTo_fp32, enc32_of_not_nan hnan, fv32_fp32 hcls]
  | fp16 => exact enc16_fv32_enc16 src
  | bf16 =>
    have hne : encBF src ≠ 0x8000#16 := fun h => hzero ⟨rfl, by rw [convert_bits, encodeTo_bf16, h]; decide⟩
    rw [fv32_bf16 hcls] at hnan ⊢
    exact encBF_append_zero hnan hne

/-- Settles O48: the widened value has the pattern's own value, so encoding it to the same pattern is no loss. -/
theorem renarrowingIsExact : Obligations.RenarrowingIsExact := by
  unfold Obligations.RenarrowingIsExact
  intro fmt src r q
  by_cases hzero : fmt = .bf16 ∧ r.bits = 0x8000
  · obtain ⟨rfl, hbits⟩ := hzero
    have henc : encBF src = 0x8000#16 := by
      have hlow := congrArg (·.extractLsb' 0 16) hbits
      exact (setWidth_extractLsb'_16 _).symm.trans hlow
    have hfv32 : r.fv32 = 0x80000000#32 := by
      change (decompose .bf16 (encBF src)).fv32 = _
      rw [henc]
      decide
    have hq : q = convert .bf16 0x80000000#32 := congrArg (convert .bf16) hfv32
    rw [hq]
    exact ⟨by decide, fun h => absurd ⟨rfl, hbits⟩ h, fun _ _ => by decide⟩
  · have henc : encodeTo fmt r.fv32 = encodeTo fmt src := encodeTo_fv32_encodeTo hzero
    refine ⟨?_, fun _ => ?_, fun hfmt hbits => absurd ⟨hfmt, hbits⟩ hzero⟩
    · rw [convert_loss, henc]
      exact lossFlag_of_sameValue (sameValue_fv32 fmt _)
    · rw [convert_bits, henc]
      rfl

/-- Settles O43: the NaN test comes before `Rebias16`, and a pattern that is a NaN is the canonical one. -/
theorem rebiasNaNBranchIsDead : Obligations.RebiasNaNBranchIsDead := by
  unfold Obligations.RebiasNaNBranchIsDead
  intro s
  have hcanonical {p : BitVec 16} (hp : (decompose .fp16 p).cls = .nan) (hne : p ≠ 0x7E01#16) : enc16 s ≠ p := by
    rintro rfl
    exact hne (enc16_eq_of_cls_nan hp)
  refine ⟨enc16_of_nan, fun h => ⟨enc16_of_not_nan h, fun hexp => (isInf32_iff s).mp ?_⟩,
    hcanonical (by decide) (by decide), hcanonical (by decide) (by decide), fun h => ?_⟩
  · rw [isInf32_iff_fields]
    refine ⟨hexp, ?_⟩
    by_contra hman
    rw [(isNaN32_iff_fields s).mpr ⟨hexp, hman⟩] at h
    cases h
  · rw [rebias16_of_nan h]
    cases srcSign s <;> decide

/-- The range of the FP16 encoder (R89): a Normal is the encoding of its own `FV32`. -/
theorem exists_enc16_eq_iff (p : BitVec 16) : (∃ s : Word, enc16 s = p) ↔
    p ∈ [0x0000#16, 0x8000#16, 0x7C00#16, 0xFC00#16, 0x7E01#16] ∨ (decompose .fp16 p).cls = .normal := by
  constructor
  · rintro ⟨s, rfl⟩
    rcases enc16_range s with h | h | h | h
    · rw [h]
      exact .inl (by decide)
    · rw [h]
      exact .inl (by cases srcSign s <;> decide)
    · rw [h]
      exact .inl (by cases srcSign s <;> decide)
    · exact .inr h
  · rintro (h | h)
    · simp only [List.mem_cons, List.not_mem_nil, or_false] at h
      rcases h with rfl | rfl | rfl | rfl | rfl
      · exact ⟨0x00000000, by decide⟩
      · exact ⟨0x80000000, by decide⟩
      · exact ⟨0x7F800000, by decide⟩
      · exact ⟨0xFF800000, by decide⟩
      · exact ⟨0x7F800001, by decide⟩
    · exact ⟨_, enc16_fv32_of_normal h⟩

/-- Settles O44: a NaN pattern comes from a NaN source alone, and the FP16 range is the one above. -/
theorem encodersNeverProduce : Obligations.EncodersNeverProduce := by
  unfold Obligations.EncodersNeverProduce
  refine ⟨fun s h => ?_, fun s => ⟨cls_enc16_ne_denormalized s, enc16_eq_of_cls_nan⟩, exists_enc16_eq_iff,
    fun s h => ?_, ⟨0x80000001, by decide⟩, fun s h => ?_, ⟨0x00010000, by decide⟩⟩
  · exact enc32_of_nan ((cls_encodeTo_eq_nan_iff .fp32 s).mp h)
  · rw [encBF_of_zero h]
    decide
  · exact encBF_of_nan ((cls_encodeTo_eq_nan_iff .bf16 s).mp h)

end Sys2Proof.Machine

/-! PROOFS. The flags of two values (42_precision_loss.md R101 to R103, R105) by the rationals the values denote, and
what the host adds to them (R107). -/

namespace Sys2Proof.Machine

/-! The kinds of a value. -/

theorem isInf_iff (v : Val) : v.isInf = true ↔ ∃ b, v = .inf b := by cases v <;> simp [Val.isInf]

theorem isZero_iff (v : Val) : v.isZero = true ↔ ∃ b, v = .zero b := by cases v <;> simp [Val.isZero]

theorem isFinite_iff (v : Val) : v.isFinite = true ↔ ∃ q, v.toRat = some q := by
  cases v <;> simp [Val.isFinite, Val.toRat]

/-- A `Fin` term has a significand of at least 1, hence a magnitude above 0 (R7). -/
theorem magnitude_ne_zero {s : Bool} {n : Nat} {k : Int} (h : (Val.fin s n k).wf = true) : (n : Rat) * 2 ^ k ≠ 0 :=
  mul_ne_zero (Nat.cast_ne_zero.mpr (of_decide_eq_true h).ne') (zpow_ne_zero _ two_ne_zero)

/-- Only a zero denotes 0 (R7). -/
theorem toRat_eq_zero_iff {v : Val} (h : v.wf = true) : v.toRat = some 0 ↔ v.isZero = true := by
  cases v with
  | nan => simp [Val.toRat, Val.isZero]
  | inf s => simp [Val.toRat, Val.isZero]
  | zero s => simp [Val.toRat, Val.isZero]
  | fin s n k =>
    refine iff_of_false (fun hrat => magnitude_ne_zero h ?_) (by simp [Val.isZero])
    rw [← abs_of_toRat_fin hrat, abs_zero]

/-- Two `Fin` terms denote one rational exactly when their signs and their magnitudes agree (R7). -/
theorem toRat_fin_eq_iff {s t : Bool} {n m : Nat} {k j : Int} (hwf : (Val.fin s n k).wf = true) :
    (Val.fin s n k).toRat = (Val.fin t m j).toRat ↔ numeq (.fin s n k) (.fin t m j) = true := by
  refine ⟨fun h => ?_, fun h => (sign_toRat_eq_of_sameValue (a := .fin s n k) (b := .fin t m j) h).2⟩
  have hmag : (n : Rat) * 2 ^ k = m * 2 ^ j := (abs_of_toRat_fin rfl).symm.trans (abs_of_toRat_fin h.symm)
  have hfactor : signFactor s = signFactor t := by
    rw [Val.toRat, Val.toRat, Option.some_inj, mul_assoc, mul_assoc, ← hmag, mul_left_inj' (magnitude_ne_zero hwf)] at h
    exact_mod_cast h
  have hsign : s = t := by
    revert hfactor
    cases s <;> cases t <;> decide
  rw [numeq, hsign, beq_self_eq_true, Bool.true_and, sameMagnitude_iff]
  exact hmag

/-- The host's comparison says equal of the same infinity and of the same rational, and of nothing else (R7). -/
theorem numeq_iff {o f : Val} (ho : o.wf = true) (hf : f.wf = true) :
    numeq o f = true ↔ (∃ b, o = .inf b ∧ f = .inf b) ∨ ∃ q, o.toRat = some q ∧ f.toRat = some q := by
  cases o with
  | nan => simp [numeq, Val.toRat]
  | inf s =>
    cases f with
    | inf t => simpa [numeq, Val.toRat] using eq_comm
    | _ => simp [numeq, Val.toRat]
  | zero s =>
    have hzero : f.toRat = some 0 ↔ numeq (.zero s) f = true := by
      rw [toRat_eq_zero_iff hf]
      cases f <;> rfl
    simpa [Val.toRat] using hzero.symm
  | fin s n k =>
    cases f with
    | zero t =>
      have hne : (Val.fin s n k).toRat ≠ some 0 := mt (toRat_eq_zero_iff ho).mp (by simp [Val.isZero])
      simpa [numeq, Val.toRat] using hne
    | fin t m j =>
      rw [← toRat_fin_eq_iff ho]
      simp [Val.toRat, eq_comm]
    | _ => simp [numeq, Val.toRat]

/-! The flags. -/

/-- `LOSS` is 0 for two NaNs and for values that compare equal (R101). -/
theorem lossFlag_eq_false_iff (o f : Val) : lossFlag o f = false ↔ (o = .nan ∧ f = .nan) ∨ numeq o f = true := by
  have hnan (v : Val) : v.isNaN = true ↔ v = .nan := by cases v <;> simp [Val.isNaN]
  rw [← hnan o, ← hnan f, lossFlag]
  cases o.isNaN <;> cases f.isNaN <;> simp

/-- A finite value that becomes infinite is a loss, so `OVF` needs no further condition (R102). -/
theorem ovfFlag_eq (o f : Val) : ovfFlag o f = (o.isFinite && f.isInf) := by
  rw [ovfFlag, Bool.and_assoc, Bool.and_eq_right_iff_imp, Bool.and_eq_true]
  rintro ⟨hfin, hinf⟩
  obtain ⟨b, rfl⟩ := (isInf_iff f).mp hinf
  cases o with
  | nan => cases hfin
  | inf s => cases hfin
  | zero s => rfl
  | fin s n k => rfl

/-- A value that is no zero and becomes one is a loss, so `UNF` needs no further condition (R103). -/
theorem unfFlag_eq (o f : Val) : unfFlag o f = (f.isZero && !o.isZero) := by
  rw [unfFlag, Bool.and_assoc, Bool.and_eq_right_iff_imp, Bool.and_eq_true]
  rintro ⟨hzero, hnonzero⟩
  obtain ⟨b, rfl⟩ := (isZero_iff f).mp hzero
  cases o with
  | zero s => cases hnonzero
  | nan => rfl
  | inf s => rfl
  | fin s n k => rfl

/-- An overflow or an underflow is a loss, and they exclude each other (R105). -/
theorem flags_lawful (o f : Val) :
    (ovfFlag o f = true → lossFlag o f = true) ∧ (unfFlag o f = true → lossFlag o f = true)
      ∧ ¬(ovfFlag o f = true ∧ unfFlag o f = true) := by
  have h := lawfulFlags_of_values o f
  revert h
  cases lossFlag o f <;> cases ovfFlag o f <;> cases unfFlag o f <;> decide

/-- Settles O42: the flags by the kind of the two values, and a NaN by `Narrows`. -/
theorem flagsSayWhatTheNarrowingLost : Obligations.FlagsSayWhatTheNarrowingLost := by
  unfold Obligations.FlagsSayWhatTheNarrowingLost
  refine ⟨fun o f ho hf => ?_, fun fmt src => (narrows_convert fmt src).eq_nan_iff.symm⟩
  obtain ⟨hovf, hunf, hexcl⟩ := flags_lawful o f
  refine ⟨?_, ?_, ?_, hexcl, fun h => h.elim hovf hunf⟩
  · exact (lossFlag_eq_false_iff o f).trans (or_congr_right (numeq_iff ho hf))
  · rw [← isFinite_iff, ← isInf_iff, ← Bool.and_eq_true, ← ovfFlag_eq]
    rfl
  · rw [toRat_eq_zero_iff hf, Ne, toRat_eq_zero_iff ho, Bool.not_eq_true, ← Bool.not_eq_true', ← Bool.and_eq_true,
      ← unfFlag_eq]
    rfl

/-! The host's share. -/

/-- The host adds to the block's flags those of its own rounding (R107). -/
theorem hostLossFlags_eq (v w : Val) (fl : LossFlags) :
    hostLossFlags v w fl = ⟨fl.loss || lossFlag v w, fl.ovf || ovfFlag v w, fl.unf || unfFlag v w⟩ := by
  rw [hostLossFlags, ovfFlag_eq, unfFlag_eq, Bool.and_comm w.isZero]

/-- A rounding that lost nothing adds nothing (R107). -/
theorem hostLossFlags_of_not_loss {v w : Val} (h : lossFlag v w = false) (fl : LossFlags) :
    hostLossFlags v w fl = fl := by
  obtain ⟨hloss, hovf, hunf⟩ := LossFlags.mk.inj (lossFlags_of_not_loss h)
  simp [hostLossFlags_eq, hloss, hovf, hunf]

/-- Settles O49: an overflow or an underflow of the host's rounding is a loss of it, as one of the block's is (R105). -/
theorem hostAddsItsOwnRoundingLoss : Obligations.HostAddsItsOwnRoundingLoss := by
  unfold Obligations.HostAddsItsOwnRoundingLoss
  intro v src fl
  obtain ⟨hovfLoss, hunfLoss, -⟩ := flags_lawful v (v32 src)
  refine ⟨fun h => hostLossFlags_of_not_loss ((lossFlag_eq_false_iff _ _).mpr h.symm) fl, ?_⟩
  rw [hostLossFlags_eq]
  refine ⟨fun hne hnan => ?_, fun hfin hinf => ?_, fun hnonzero hzero => ?_, ?_, ?_, ?_⟩
  · have hloss : lossFlag v (v32 src) = true := by
      rw [← Bool.not_eq_false, lossFlag_eq_false_iff, hne]
      simp [hnan]
    simp [hloss]
  · have hovf : ovfFlag v (v32 src) = true := by rw [ovfFlag_eq, hfin, hinf]; rfl
    simp [hovf, hovfLoss hovf]
  · have hunf : unfFlag v (v32 src) = true := by rw [unfFlag_eq, hnonzero, hzero]; rfl
    simp [hunf, hunfLoss hunf]
  · exact Bool.or_inl
  · exact Bool.or_inl
  · exact Bool.or_inl

end Sys2Proof.Machine

/-! PROOFS. The flags as bit tables over the source word (42_precision_loss.md R106): each row of R87 and R88 carries
the flags of the class it covers. -/

namespace Sys2Proof.Machine

/-- The last three columns of a row are the flags between source and result (R80). -/
theorem lossFlags_of_tableRow {fmt : Fmt} {src b : Word} {c : Cls} {l v u : Bool}
    (h : tableRow (convert fmt src) = (b, c, l, v, u)) :
    lossFlags (v32 src) (decompose fmt (encodeTo fmt src)).fv = ⟨l, v, u⟩ := by
  simp only [tableRow, Prod.mk.injEq] at h
  obtain ⟨-, -, rfl, rfl, rfl⟩ := h
  rfl

/-- R106, case FP16, row by row. -/
theorem lossFlags_enc16 (src : Word) :
    lossFlags (v32 src) (decompose .fp16 (encodeTo .fp16 src)).fv = flagTable16 src := by
  have hlow : (srcMan src).extractLsb' 0 13 = src.extractLsb' 0 13 := BitVec.extractLsb'_extractLsb'_of_le (by decide)
  dsimp only [flagTable16]
  split
  case isTrue hones =>
    have hexp : srcExp src = 0xFF#8 := (srcExp_eq_ones_iff src).mpr hones
    by_cases hman : srcMan src = 0#23
    · exact lossFlags_of_tableRow (tableRow16_of_inf ((isInf32_iff_fields src).mpr ⟨hexp, hman⟩))
    · exact lossFlags_of_tableRow (tableRow16_of_nan ((isNaN32_iff_fields src).mpr ⟨hexp, hman⟩))
  case isFalse hones =>
    split
    case isTrue hzero => exact lossFlags_of_tableRow (tableRow16_of_zero_exponent hzero)
    case isFalse hzero =>
      split
      case isTrue hsmall => exact lossFlags_of_tableRow (tableRow16_of_small hzero hsmall)
      case isFalse hsmall =>
        split
        case isTrue hmedium =>
          rw [hlow]
          exact lossFlags_of_tableRow (tableRow16_of_medium hsmall hmedium)
        case isFalse hmedium => exact lossFlags_of_tableRow (tableRow16_of_large hmedium hones)

/-- The first row of the BF16 table (R106). -/
theorem flagTableBF_of_special {s : Word} (h : (isNaN32 s || isInf32 s || isZero32 s) = true) :
    flagTableBF s = ⟨false, false, false⟩ := if_pos h

/-- The last row of the BF16 table: a finite source that is no zero (R106). -/
theorem flagTableBF_of_finite {s : Word} (hfin : (srcExp s).toNat ≠ 255) (hzero : srcExp s ≠ 0#8 ∨ srcMan s ≠ 0#23) :
    flagTableBF s = ⟨s.extractLsb' 0 16 != 0#16, false, s.extractLsb' 16 15 == 0#15⟩ := by
  simp [flagTableBF, isNaN32_eq_false hfin, isInf32_eq_false hfin, isZero32_eq_false hzero]

/-- `SRC[30:16]` is the exponent field over the top seven mantissa bits (R81). -/
theorem upperBody_eq_zero_iff (s : Word) :
    s.extractLsb' 16 15 = 0#15 ↔ srcExp s = 0#8 ∧ s.extractLsb' 16 7 = 0#7 := by
  simp only [srcExp, BitVec.toNat_eq, BitVec.extractLsb'_toNat, BitVec.toNat_ofNat, Nat.shiftRight_eq_div_pow]
  omega

/-- A mantissa field whose top seven bits are zero is not zero by its low sixteen (R106). -/
theorem lowHalf_ne_zero {s : Word} (hman : srcMan s ≠ 0#23) (hhigh : s.extractLsb' 16 7 = 0#7) :
    s.extractLsb' 0 16 ≠ 0#16 := by
  intro hlow
  apply hman
  apply BitVec.eq_of_toNat_eq
  rw [srcMan_split s (k := 7) (d := 16) rfl, srcMan_high7, hhigh, hlow]
  rfl

/-- R106, case BF16, class by class. -/
theorem lossFlags_encBF (src : Word) :
    lossFlags (v32 src) (decompose .bf16 (encodeTo .bf16 src)).fv = flagTableBF src := by
  rcases source_cases src with h | h | h | h | ⟨hpos, hmax⟩
  · rw [flagTableBF_of_special (by simp [h])]
    exact lossFlags_of_tableRow (tableRowBF_of_nan h)
  · rw [flagTableBF_of_special (by simp [h])]
    exact lossFlags_of_tableRow (tableRowBF_of_inf h)
  · rw [flagTableBF_of_special (by simp [h])]
    exact lossFlags_of_tableRow (tableRowBF_of_zero h)
  · obtain ⟨hexp, hman⟩ := (isSub32_iff_fields src).mp h
    rw [flagTableBF_of_finite (by rw [hexp]; decide) (.inr hman)]
    by_cases hhigh : src.extractLsb' 16 7 = 0#7
    · rw [bne_iff_ne.mpr (lowHalf_ne_zero hman hhigh), beq_iff_eq.mpr ((upperBody_eq_zero_iff src).mpr ⟨hexp, hhigh⟩)]
      exact lossFlags_of_tableRow (tableRowBF_of_tiny h hhigh)
    · rw [beq_eq_false_iff_ne.mpr (mt (upperBody_eq_zero_iff src).mp fun hupper => hhigh hupper.2)]
      exact lossFlags_of_tableRow (tableRowBF_of_sub h hhigh)
  · have hexp : srcExp src ≠ 0#8 := mt (srcExp_eq_zero_iff src).mp hpos.ne'
    rw [flagTableBF_of_finite hmax.ne (.inl hexp),
      beq_eq_false_iff_ne.mpr (mt (upperBody_eq_zero_iff src).mp fun hupper => hexp hupper.1)]
    exact lossFlags_of_tableRow (tableRowBF_of_normal hpos.ne' hmax.ne)

/-- R106: the flags by values are the flags by bits. -/
theorem lossFlags_eq_flagTable (fmt : Fmt) (src : Word) :
    lossFlags (v32 src) (decompose fmt (encodeTo fmt src)).fv = flagTable fmt src := by
  cases fmt with
  | fp32 =>
    rw [encodeTo_fp32, fv_enc32]
    exact lossFlags_self _
  | fp16 => exact lossFlags_enc16 src
  | bf16 => exact lossFlags_encBF src

/-- Settles O41: that `UNF` implies `LOSS` in the tables is what it is by values (R105). -/
theorem flagTablesEqualTheValueFlags : Obligations.FlagTablesEqualTheValueFlags := by
  unfold Obligations.FlagTablesEqualTheValueFlags
  refine ⟨lossFlags_eq_flagTable, fun fmt src => ?_, by decide, by decide, by decide, by decide, by decide, by decide,
    by decide⟩
  obtain ⟨-, hunf, -⟩ := flags_lawful (v32 src) (decompose fmt (encodeTo fmt src)).fv
  rw [← lossFlags_eq_flagTable]
  exact hunf

end Sys2Proof.Machine

/-! PROOFS. The two faults (60_exceptions.md R111 to R113, R119): a command faults exactly when its operand fails the
check of R60, with `MalformedOperand`; so `IllegalCommand` is the decoder's alone, and well-formed commands never
fault. -/

namespace Sys2Proof.Machine

/-! Which commands fault. -/

/-- A 16-bit operand with a zero upper half passes the check (R60). -/
theorem fits16_iff (src : Word) : fits16 src = true ↔ src.extractLsb' 16 16 = 0#16 := beq_iff_eq

theorem fits16_eq_false_iff (src : Word) : fits16 src = false ↔ src.extractLsb' 16 16 ≠ 0#16 := beq_eq_false_iff_ne

/-- The commands that fail the operand check (R60). -/
theorem wellFormed_eq_false_iff (i : Instr) :
    i.wellFormed = false ↔ (i = .decFp16 i.src ∨ i = .decBf16 i.src) ∧ i.src.extractLsb' 16 16 ≠ 0#16 := by
  cases i <;> simp [Instr.wellFormed, Instr.src, fits16_eq_false_iff]

/-- The operand check fails on a 16-bit format with a non-zero upper half, with `MalformedOperand` (R60, R113). -/
theorem operand_eq_error_iff (fmt : Fmt) (src : Word) (code : FaultCode) :
    operand fmt src = .error code ↔ (fmt.pw = 16 ∧ fits16 src = false) ∧ code = .malformedOperand := by
  rw [operand, fits16_eq_false_iff]
  split_ifs with h
  · simp [h, eq_comm]
  · simp [h]

/-- A `DEC` faults exactly as its operand check does (R113). -/
theorem decResponse_eq_fault_iff (fmt : Fmt) (src : Word) (code : FaultCode) :
    decResponse fmt src = .fault code ↔ (fmt.pw = 16 ∧ fits16 src = false) ∧ code = .malformedOperand := by
  rw [← operand_eq_error_iff, decResponse]
  cases operand fmt src <;> simp

/-- A command faults exactly when it fails the operand check, and then with `MalformedOperand` (R113, R119). -/
theorem responseOf_eq_fault_iff (i : Instr) (code : FaultCode) :
    responseOf i = .fault code ↔ i.wellFormed = false ∧ code = .malformedOperand := by
  cases i with
  | decFp32 src | decFp16 src | decBf16 src =>
    simp [responseOf, Instr.wellFormed, decResponse_eq_fault_iff]
  | cvtFp32 src | cvtFp16 src | cvtBf16 src => simp [responseOf, Instr.wellFormed]

/-- A word is answered by `IllegalCommand` exactly when the decoder rejects it: no command raises it (R112, R115). -/
theorem responseTo_eq_illegalCommand_iff (w : CmdWord) :
    responseTo w = .fault .illegalCommand ↔ decodeCommand w = .error .illegalCommand := by
  unfold responseTo
  cases decodeCommand w with
  | ok i => simp [responseOf_eq_fault_iff]
  | error code => simp

/-- A command with a well-formed operand completes with an `Ok` response and changes nothing else (R119). -/
theorem exec_of_wellFormed {i : Instr} (h : i.wellFormed = true) (s : State) :
    ∃ r : Fields, exec i s = .next { cmdPort := s.cmdPort, rspPort := s.rspPort ++ [.ok r] } := by
  cases hresp : responseOf i with
  | ok r => exact ⟨r, exec_of_responseOf hresp s⟩
  | fault code =>
    obtain ⟨hfails, -⟩ := (responseOf_eq_fault_iff i code).mp hresp
    simp [h] at hfails

/-! What a fault does to the ports. -/

/-- A command that fails the operand check completes with the fault and changes nothing else (R111, R113). -/
theorem exec_of_not_wellFormed {i : Instr} (h : i.wellFormed = false) (s : State) :
    exec i s = .next { cmdPort := s.cmdPort, rspPort := s.rspPort ++ [.fault .malformedOperand] } := by
  rw [exec_eq_respond, (responseOf_eq_fault_iff i _).mpr ⟨h, rfl⟩]
  rfl

/-- The response that a command is seen to append is the one it computes. -/
theorem responseOf_of_exec {i : Instr} {s t : State} {r : Response} (h : exec i s = .next t)
    (hr : t.rspPort = s.rspPort ++ [r]) : responseOf i = r := by
  rw [exec_eq_respond] at h
  cases h
  simpa using hr

/-- A step is seen to answer `r` exactly when `r` is the response to its word. -/
theorem step_eq_iff_responseTo {s : State} {w : CmdWord} {rest : List CmdWord} (h : s.cmdPort = w :: rest)
    (r : Response) : step s = .next { cmdPort := rest, rspPort := s.rspPort ++ [r] } ↔ responseTo w = r := by
  rw [step_of_cons h]
  simp [State.respond, State.afterTake]

/-- On the wire a fault is its `ERR` code with zeros below and above (R51). -/
theorem pack_fault_toNat (code : FaultCode) : (pack (.fault code)).toNat = (errCode code).toNat * 2 ^ 113 := by
  cases code <;> rfl

/-- Settles O12: the fault appends its response and leaves the queue behind it, and what the next word is answered
depends on that word alone. -/
theorem faultLeavesNoTrace : Obligations.FaultLeavesNoTrace := by
  unfold Obligations.FaultLeavesNoTrace
  intro w v code rest rs hfault
  refine ⟨responseTo v, ?_, (step_eq_iff_responseTo rfl _).mpr rfl, ?_⟩
  · rw [run_succ_cons, run_succ_cons, run_zero, hfault, List.append_assoc]
    rfl
  · rw [transact, hfault, pack_fault_toNat]

/-- Settles O23: the commands that fail the operand check are the two 16-bit `DEC` with a non-zero upper half. -/
theorem malformedOperandExactlyOnAWidePattern : Obligations.MalformedOperandExactlyOnAWidePattern := by
  unfold Obligations.MalformedOperandExactlyOnAWidePattern
  refine ⟨fun src s hwide => ?_, fun i s t code hexec hrsp => ?_⟩
  · have hfails : fits16 src = false := (fits16_eq_false_iff src).mpr hwide
    exact ⟨exec_of_not_wellFormed (i := .decFp16 src) hfails s, exec_of_not_wellFormed (i := .decBf16 src) hfails s⟩
  · obtain ⟨hfails, hcode⟩ := (responseOf_eq_fault_iff i code).mp (responseOf_of_exec hexec hrsp)
    exact ⟨hcode, (wellFormed_eq_false_iff i).mp hfails⟩

/-- Settles O24: each of these commands is well formed. -/
theorem numericPathsNeverFault : Obligations.NumericPathsNeverFault := by
  unfold Obligations.NumericPathsNeverFault
  intro src s
  have hwide : ∀ i ∈ [Instr.decFp32 src, .cvtFp32 src, .cvtFp16 src, .cvtBf16 src], i.wellFormed = true := by
    simp [Instr.wellFormed]
  have hnarrow (h : src.extractLsb' 16 16 = 0#16) :
      ∀ i ∈ [Instr.decFp16 src, .decBf16 src], i.wellFormed = true := by
    simp [Instr.wellFormed, (fits16_iff src).mpr h]
  exact ⟨fun i hi => exec_of_wellFormed (hwide i hi) s, fun h i hi => exec_of_wellFormed (hnarrow h i hi) s⟩

/-- Settles O8: `IllegalCommand` is the decoder's rejection, which reads the three fields (R46). -/
theorem reservedWordRespondsIllegalCommand : Obligations.ReservedWordRespondsIllegalCommand := by
  unfold Obligations.ReservedWordRespondsIllegalCommand
  intro s w rest h
  obtain ⟨hfields, -⟩ := illegalExactlyWhenAFieldIsReserved
  rw [ne_eq (step s), step_eq_iff_responseTo h, responseTo_eq_illegalCommand_iff, hfields, or_comm (a := cmdFmt w = 3)]
  refine ⟨id, fun hop hrsv hfmt hreserved => ?_⟩
  rcases hreserved with ⟨hdec, hcvt⟩ | hrsv' | hfmt'
  · exact hop.elim hdec hcvt
  · exact hrsv' hrsv
  · exact hfmt hfmt'

end Sys2Proof.Machine

/-! PROOFS. Reset and the host's duties (70_reset_and_hazards.md R130, R133, R135). A run from reset answers each word
of the queue with `responseTo` of that word, so the order of the queue and the other words in it do not matter; and a
word is answered by a fault exactly when it breaks duty 1 or 2. -/

namespace Sys2Proof.Machine

/-! Order and omission of commands. -/

/-- A queue performed to its end from an empty response port leaves the responses to its words (R36). -/
theorem run_length_queue (ws : List CmdWord) :
    core.run ws.length (⟨ws, []⟩ : State) = .next (⟨[], ws.map responseTo⟩ : State) := by
  simpa using responsesInCommandOrder ws [] []

/-- Pairing each word with its response commutes with reordering the words (R135). -/
theorem zip_map_responseTo_perm {us vs : List CmdWord} (h : us.Perm vs) :
    (us.zip (us.map responseTo)).Perm (vs.zip (vs.map responseTo)) := by
  rw [← List.map_prod_left_eq_zip, ← List.map_prod_left_eq_zip]
  exact h.map _

/-- Settles O13: the responses to a queue are `responseTo` of its words, one by one, so they are permuted with the words
and split where the queue is split. -/
theorem commandsAreIndependent : Obligations.CommandsAreIndependent := by
  unfold Obligations.CommandsAreIndependent
  refine ⟨fun us vs hperm => ?_, fun us vs w => ?_⟩
  · exact ⟨us.map responseTo, vs.map responseTo, run_length_queue us, run_length_queue vs,
      zip_map_responseTo_perm hperm⟩
  · refine ⟨us.map responseTo, vs.map responseTo, responseTo w, ?_, ?_, List.length_map responseTo⟩
    · have hlen : us.length + 1 + vs.length = (us ++ w :: vs).length := by
        rw [List.length_append, List.length_cons]
        omega
      rw [hlen, run_length_queue, List.map_append, List.map_cons]
    · rw [← List.length_append, run_length_queue, List.map_append]

/-! Duties 1 and 2. -/

/-- A command faults exactly when it fails the operand check (R113, R119). -/
theorem isFault_responseOf (i : Instr) : (responseOf i).isFault = !i.wellFormed := by
  cases h : responseOf i with
  | fault code =>
    obtain ⟨hfails, -⟩ := (responseOf_eq_fault_iff i code).mp h
    simp [Response.isFault, hfails]
  | ok r =>
    have hpasses : i.wellFormed ≠ false := fun hfails => by
      simpa [h] using (responseOf_eq_fault_iff i .malformedOperand).mpr ⟨hfails, rfl⟩
    simp [Response.isFault, hpasses]

/-- A word is answered by a fault exactly when it breaks duty 1, being no command, or duty 2 (R110, R133). -/
theorem isFault_responseTo (w : CmdWord) : (responseTo w).isFault = !dutiful w := by
  unfold responseTo dutiful
  cases decodeCommand w with
  | ok i => exact isFault_responseOf i
  | error code => rfl

/-- What a good run is, with the two ports apart. -/
theorem goodRun_iff (s : State) :
    goodRun s = true ↔ (∀ w ∈ s.cmdPort, dutiful w = true) ∧ ∀ r ∈ s.rspPort, r.isFault = false := by
  simp [goodRun, faultFree]

/-- Performing the oldest word of a good run leaves a good run: the word was dutiful, so its response is no fault. -/
theorem goodRun_respond {s : State} {w : CmdWord} {rest : List CmdWord} (hs : goodRun s = true)
    (h : s.cmdPort = w :: rest) : goodRun ((s.afterTake rest).respond (responseTo w)) = true := by
  rw [goodRun_iff] at hs ⊢
  obtain ⟨hcmds, hrsps⟩ := hs
  rw [h, List.forall_mem_cons] at hcmds
  obtain ⟨hw, hrest⟩ := hcmds
  have hanswer : (responseTo w).isFault = false := by rw [isFault_responseTo, hw]; rfl
  refine ⟨hrest, fun r hr => ?_⟩
  rw [respond_rspPort, afterTake_rspPort, List.mem_append, List.mem_singleton] at hr
  rcases hr with hold | rfl
  · exact hrsps r hold
  · exact hanswer

/-- Settles O18: an idle step changes nothing, and a step on a dutiful word answers without a fault. -/
theorem dutifulHostSeesNoFault : Obligations.DutifulHostSeesNoFault := by
  unfold Obligations.DutifulHostSeesNoFault
  refine ⟨fun s hs => ?_, fun w => ?_⟩
  · cases h : s.cmdPort with
    | nil => exact ⟨s, step_of_nil h, hs⟩
    | cons w rest => exact ⟨_, step_of_cons h, goodRun_respond hs h⟩
  · rw [isFault_responseTo, Bool.not_eq_true']

/-! Reset. -/

/-- The host takes the response at the head of the port (R36, R133). -/
theorem takeResponse_of_cons {s : State} {r : Response} {rest : List Response} (h : s.rspPort = r :: rest) :
    s.takeResponse = some (r, { s with rspPort := rest }) := by
  simp only [State.takeResponse, h]

/-- Settles O15: the word presented after reset is the only one at the port and its response the only one given, so
both ports are empty again once the response is taken. -/
theorem completedCommandLeavesTheResetState : Obligations.CompletedCommandLeavesTheResetState := by
  unfold Obligations.CompletedCommandLeavesTheResetState
  intro s w
  have hport : (s.assertReset.submit w).cmdPort = [w] := rfl
  exact ⟨_, responseTo w, step_of_cons hport, takeResponse_of_cons rfl, rfl⟩

end Sys2Proof.Machine
